-- ==== Sys2Proof/Word.lean ====
section
/-! DEFINITION. The widths of the block: words, bytes, register indices, ROB ids, and the 32-entry bank that every
fixed-capacity structure of the block is (`00_scope.md` R6, R8). -/

namespace Sys2Proof

/-- A value of `XLEN` = 32 bits: a general register, the pc, an address, an ALU value (R6). -/
abbrev Word := BitVec 32

/-- A byte of memory is 8 bits (R60). -/
abbrev Byte := BitVec 8

/-- The index of one of the `NREG` = 32 general registers (R6, R20). -/
abbrev Reg := BitVec 5

/-- A ROB id: `TAG_BITS` = 5 bits, since `ROB_CAP` = 32 (R6, R30). -/
abbrev RobId := BitVec 5

/-- The index of a Reservation Station or Load-Store Buffer slot, 0 .. 31 (R27, R28). -/
abbrev Slot := BitVec 5

/-- Thirty-two like things: the register file, the Alias Table, the RS, the LSB and the ROB all have 32 entries (R6). -/
abbrev Bank (α : Type) := Vector α 32

end Sys2Proof
end

