-- ==== Sys2Proof/Config.lean ====
section
/-! DEFINITION. What is fixed for one instance of the block: its open parameters (`00_scope.md` R6, the table of open
parameters of `92_eei_decisions.md`), the sentinel word, and the values the spec leaves unspecified. -/

namespace Sys2Proof

/-- The open parameters of the block that are fixed once it is built (`92_eei_decisions.md`, "Open parameters, collected").
The fourth one, `SELECT`, is a choice made anew in every cycle and stands in the state (`State.choices`). -/
structure Params where
  /-- `MEM_BYTES`: how many bytes of memory there are, at addresses 0 .. `memBytes` - 1 (R60, D15). -/
  memBytes : Nat
  /-- `RESET_PC`: the pc after reset (R43, D14). -/
  resetPc : Word
  /-- `PRED_INIT`: the predictor counter after reset, 0 or 1 (R315, D9). -/
  predInit : BitVec 2
deriving DecidableEq, Repr

/-- The defaults the spec gives the open parameters: `MEM_BYTES` = 2^32, `RESET_PC` = 0, `PRED_INIT` = 0 (R6). -/
def Params.standard : Params := { memBytes := 4294967296, resetPc := 0, predInit := 0 }

/-- The values the spec lets the open parameters vary over: `MEM_BYTES` any positive multiple of 4 up to 2^32, `RESET_PC` any
word, `PRED_INIT` 0 or 1 (`92_eei_decisions.md`, "Open parameters, collected"). -/
abbrev Params.legal (p : Params) : Prop :=
  0 < p.memBytes ∧ p.memBytes % 4 = 0 ∧ p.memBytes ≤ 4294967296 ∧ p.predInit.toNat ≤ 1

/-- `HALT_WORD`, the halt sentinel (R6, R99). -/
def haltWord : Word := 0x0FF00513

/-- `RET_REG`, the index of the "return-value register" (R6, R99). -/
def retReg : Reg := 10

/-- Every value the spec calls unspecified at the moment it is written (R146 `Resolve` of a pending source; R151 `value` and
`addr` before the entry fires; `93_implementation_defined.md` U2 "any value"). DESIGN CHOICE (log entry 4), safe: a constant
with no body, applied to the running count `State.freeCount`, so nothing can be proved about any one of these values. -/
opaque Config.freeWord : Nat → Word

end Sys2Proof
end

