-- ==== Sys2Proof/Syntax.lean ====
section
/-! DEFINITION. The instructions: one constructor for each row of `spec/opcode_table.json` (`30_encoding.md` R97, R99). An
operand `imm` is the 32-bit immediate of the instruction record, already assembled and extended (R91, R95); `WellFormed.lean`
says which values an encoding admits. A word that matches no row is no instruction: it is the INVALID record (R101). -/

namespace Sys2Proof

/-- The 38 rows of the opcode table: the sentinel and the 37 operations (R97, R99). -/
inductive Instr where
  /-- HALT: the sentinel, the one word 0x0FF00513 (R99, R278). -/
  | halt
  /-- LUI, load upper immediate (R200). -/
  | lui (rd : Reg) (imm : Word)
  /-- AUIPC, add upper immediate to pc (R201). -/
  | auipc (rd : Reg) (imm : Word)
  /-- JAL, jump and link (R276). -/
  | jal (rd : Reg) (imm : Word)
  /-- JALR, jump and link register (R277). -/
  | jalr (rd rs1 : Reg) (imm : Word)
  /-- BEQ, branch if equal (R270). -/
  | beq (rs1 rs2 : Reg) (imm : Word)
  /-- BNE, branch if not equal (R271). -/
  | bne (rs1 rs2 : Reg) (imm : Word)
  /-- BLT, branch if less than, signed (R272). -/
  | blt (rs1 rs2 : Reg) (imm : Word)
  /-- BGE, branch if greater or equal, signed (R273). -/
  | bge (rs1 rs2 : Reg) (imm : Word)
  /-- BLTU, branch if less than, unsigned (R274). -/
  | bltu (rs1 rs2 : Reg) (imm : Word)
  /-- BGEU, branch if greater or equal, unsigned (R275). -/
  | bgeu (rs1 rs2 : Reg) (imm : Word)
  /-- LB, load byte signed (R211). -/
  | lb (rd rs1 : Reg) (imm : Word)
  /-- LH, load halfword signed (R212). -/
  | lh (rd rs1 : Reg) (imm : Word)
  /-- LW, load word (R213). -/
  | lw (rd rs1 : Reg) (imm : Word)
  /-- LBU, load byte unsigned (R214). -/
  | lbu (rd rs1 : Reg) (imm : Word)
  /-- LHU, load halfword unsigned (R215). -/
  | lhu (rd rs1 : Reg) (imm : Word)
  /-- SB, store byte (R217). -/
  | sb (rs1 rs2 : Reg) (imm : Word)
  /-- SH, store halfword (R218). -/
  | sh (rs1 rs2 : Reg) (imm : Word)
  /-- SW, store word (R219). -/
  | sw (rs1 rs2 : Reg) (imm : Word)
  /-- ADDI, add immediate (R230). -/
  | addi (rd rs1 : Reg) (imm : Word)
  /-- SLTI, set if less than immediate, signed (R231). -/
  | slti (rd rs1 : Reg) (imm : Word)
  /-- SLTIU, set if less than immediate, unsigned (R232). -/
  | sltiu (rd rs1 : Reg) (imm : Word)
  /-- XORI, exclusive-or immediate (R233). -/
  | xori (rd rs1 : Reg) (imm : Word)
  /-- ORI, or immediate (R234). -/
  | ori (rd rs1 : Reg) (imm : Word)
  /-- ANDI, and immediate (R235). -/
  | andi (rd rs1 : Reg) (imm : Word)
  /-- SLLI, shift left logical immediate (R236). -/
  | slli (rd rs1 : Reg) (shamt : BitVec 5)
  /-- SRLI, shift right logical immediate (R237). -/
  | srli (rd rs1 : Reg) (shamt : BitVec 5)
  /-- SRAI, shift right arithmetic immediate (R238). -/
  | srai (rd rs1 : Reg) (shamt : BitVec 5)
  /-- ADD, add (R250). -/
  | add (rd rs1 rs2 : Reg)
  /-- SUB, subtract (R251). -/
  | sub (rd rs1 rs2 : Reg)
  /-- SLL, shift left logical (R252). -/
  | sll (rd rs1 rs2 : Reg)
  /-- SLT, set if less than, signed (R253). -/
  | slt (rd rs1 rs2 : Reg)
  /-- SLTU, set if less than, unsigned (R254). -/
  | sltu (rd rs1 rs2 : Reg)
  /-- XOR, exclusive or (R255). -/
  | xor (rd rs1 rs2 : Reg)
  /-- SRL, shift right logical (R256). -/
  | srl (rd rs1 rs2 : Reg)
  /-- SRA, shift right arithmetic (R257). -/
  | sra (rd rs1 rs2 : Reg)
  /-- OR, or (R258). -/
  | or (rd rs1 rs2 : Reg)
  /-- AND, and (R259). -/
  | and (rd rs1 rs2 : Reg)
deriving DecidableEq, Repr

end Sys2Proof
end

