-- ==== Sys2Proof/WellFormed.lean ====
section
/-! DEFINITION. Which instructions an encoding exists for: the immediate of each format is one the bit fields of that format can
hold (`30_encoding.md` R94, R95), and the ADDI whose word is the sentinel is no ADDI (R99, R100). -/

namespace Sys2Proof

/-- `imm` is the sign extension of its low 12 bits: what an I or S format holds (R95). -/
def immFits12 (imm : Word) : Bool := (imm.setWidth 12).signExtend 32 == imm

/-- `imm` is the sign extension of its low 13 bits and even: what a B format holds, "a multiple of 2 in -4096 .. 4094" (R95). -/
def immFitsBranch (imm : Word) : Bool := (imm.setWidth 13).signExtend 32 == imm && !imm.getLsbD 0

/-- `imm` is the sign extension of its low 21 bits and even: what a J format holds, "a multiple of 2 in -1048576 .. 1048574"
(R95). -/
def immFitsJump (imm : Word) : Bool := (imm.setWidth 21).signExtend 32 == imm && !imm.getLsbD 0

/-- The low 12 bits of `imm` are zero: what a U format holds (R95). -/
def immFitsUpper (imm : Word) : Bool := imm.setWidth 12 == 0#12

/-- `addi x10, x0, 255` written as an ADDI: its word is `HALT_WORD`, which is the sentinel and nothing else (R99, R230). -/
def isSentinelAddi (rd rs1 : Reg) (imm : Word) : Bool := rd == retReg && rs1 == 0 && imm == 255

/-- The instruction has an encoding (R94, R95, R100). -/
def Instr.wf : Instr → Bool
  | .halt => true
  | .lui _ imm => immFitsUpper imm
  | .auipc _ imm => immFitsUpper imm
  | .jal _ imm => immFitsJump imm
  | .jalr _ _ imm => immFits12 imm
  | .beq _ _ imm => immFitsBranch imm
  | .bne _ _ imm => immFitsBranch imm
  | .blt _ _ imm => immFitsBranch imm
  | .bge _ _ imm => immFitsBranch imm
  | .bltu _ _ imm => immFitsBranch imm
  | .bgeu _ _ imm => immFitsBranch imm
  | .lb _ _ imm => immFits12 imm
  | .lh _ _ imm => immFits12 imm
  | .lw _ _ imm => immFits12 imm
  | .lbu _ _ imm => immFits12 imm
  | .lhu _ _ imm => immFits12 imm
  | .sb _ _ imm => immFits12 imm
  | .sh _ _ imm => immFits12 imm
  | .sw _ _ imm => immFits12 imm
  | .addi rd rs1 imm => immFits12 imm && !isSentinelAddi rd rs1 imm
  | .slti _ _ imm => immFits12 imm
  | .sltiu _ _ imm => immFits12 imm
  | .xori _ _ imm => immFits12 imm
  | .ori _ _ imm => immFits12 imm
  | .andi _ _ imm => immFits12 imm
  | .slli _ _ _ => true
  | .srli _ _ _ => true
  | .srai _ _ _ => true
  | .add _ _ _ => true
  | .sub _ _ _ => true
  | .sll _ _ _ => true
  | .slt _ _ _ => true
  | .sltu _ _ _ => true
  | .xor _ _ _ => true
  | .srl _ _ _ => true
  | .sra _ _ _ => true
  | .or _ _ _ => true
  | .and _ _ _ => true

end Sys2Proof
end

