-- ==== Sys2Proof/Decode.lean ====
section
/-! DEFINITION. Decoding an instruction word and, after it, encoding an instruction, both written from `30_encoding.md` R93 to
R102. A word that matches no row is rejected by name; `Machine/Record.lean` turns a rejection into the INVALID record of R101. -/

namespace Sys2Proof

/-- Why a word is unrecognised: the cases of R102, and a byte string shorter than the one instruction length of R90. -/
inductive DecodeReject where
  /-- Fewer than the four bytes of an instruction word (R90). -/
  | tooShort
  /-- `w[6:0]` is none of the nine major opcodes of R96 (R102 (a)). -/
  | unknownOpcode (opcode : BitVec 7)
  /-- The major opcode is known, `funct3` selects no row (R102 (b) to (e)). -/
  | unknownFunct3 (opcode : BitVec 7) (funct3 : BitVec 3)
  /-- Opcode and `funct3` are known, `funct7` selects no row (R102 (f), (g)). -/
  | unknownFunct7 (opcode : BitVec 7) (funct3 : BitVec 3) (funct7 : BitVec 7)
deriving DecidableEq, Repr

/-! ### Fields and immediates (R93, R95) -/

/-- `opcode = w[6:0]` (R93). -/
def fieldOpcode (w : Word) : BitVec 7 := w.extractLsb' 0 7
/-- `rd = w[11:7]` (R93). -/
def fieldRd (w : Word) : Reg := w.extractLsb' 7 5
/-- `funct3 = w[14:12]` (R93). -/
def fieldFunct3 (w : Word) : BitVec 3 := w.extractLsb' 12 3
/-- `rs1 = w[19:15]` (R93). -/
def fieldRs1 (w : Word) : Reg := w.extractLsb' 15 5
/-- `rs2 = w[24:20]` (R93); in the shift-immediate variant of the I format the same bits are `shamt` (R94). -/
def fieldRs2 (w : Word) : Reg := w.extractLsb' 20 5
/-- `funct7 = w[31:25]` (R93). -/
def fieldFunct7 (w : Word) : BitVec 7 := w.extractLsb' 25 7

/-- Class I: `sext_12(w[31:20])` (R95). -/
def immI (w : Word) : Word := (w.extractLsb' 20 12).signExtend 32

/-- Class S: `sext_12(w[31:25] ++ w[11:7])` (R95). -/
def immS (w : Word) : Word := (w.extractLsb' 25 7 ++ w.extractLsb' 7 5 : BitVec 12).signExtend 32

/-- Class B: `sext_13(w[31] ++ w[7] ++ w[30:25] ++ w[11:8] ++ 0)` (R95). -/
def immB (w : Word) : Word :=
  (w.extractLsb' 31 1 ++ w.extractLsb' 7 1 ++ w.extractLsb' 25 6 ++ w.extractLsb' 8 4 ++ 0#1 : BitVec 13).signExtend 32

/-- Class U: `w[31:12] ++ 0x000` (R95). -/
def immU (w : Word) : Word := (w.extractLsb' 12 20 ++ 0#12 : BitVec 32)

/-- Class J: `sext_21(w[31] ++ w[19:12] ++ w[20] ++ w[30:21] ++ 0)` (R95). -/
def immJ (w : Word) : Word :=
  (w.extractLsb' 31 1 ++ w.extractLsb' 12 8 ++ w.extractLsb' 20 1 ++ w.extractLsb' 21 10 ++ 0#1 : BitVec 21).signExtend 32

/-! ### The opcode map (R96, R97) -/

/-- Opcode 0x63: the six branches by `funct3` (R97 rows 5 to 10). -/
def decodeBranch (w : Word) : Except DecodeReject Instr :=
  match (fieldFunct3 w).toNat with
  | 0 => .ok (.beq (fieldRs1 w) (fieldRs2 w) (immB w))
  | 1 => .ok (.bne (fieldRs1 w) (fieldRs2 w) (immB w))
  | 4 => .ok (.blt (fieldRs1 w) (fieldRs2 w) (immB w))
  | 5 => .ok (.bge (fieldRs1 w) (fieldRs2 w) (immB w))
  | 6 => .ok (.bltu (fieldRs1 w) (fieldRs2 w) (immB w))
  | 7 => .ok (.bgeu (fieldRs1 w) (fieldRs2 w) (immB w))
  | _ => .error (.unknownFunct3 (fieldOpcode w) (fieldFunct3 w))

/-- Opcode 0x03: the five loads by `funct3` (R97 rows 11 to 15). -/
def decodeLoad (w : Word) : Except DecodeReject Instr :=
  match (fieldFunct3 w).toNat with
  | 0 => .ok (.lb (fieldRd w) (fieldRs1 w) (immI w))
  | 1 => .ok (.lh (fieldRd w) (fieldRs1 w) (immI w))
  | 2 => .ok (.lw (fieldRd w) (fieldRs1 w) (immI w))
  | 4 => .ok (.lbu (fieldRd w) (fieldRs1 w) (immI w))
  | 5 => .ok (.lhu (fieldRd w) (fieldRs1 w) (immI w))
  | _ => .error (.unknownFunct3 (fieldOpcode w) (fieldFunct3 w))

/-- Opcode 0x23: the three stores by `funct3` (R97 rows 16 to 18). -/
def decodeStore (w : Word) : Except DecodeReject Instr :=
  match (fieldFunct3 w).toNat with
  | 0 => .ok (.sb (fieldRs1 w) (fieldRs2 w) (immS w))
  | 1 => .ok (.sh (fieldRs1 w) (fieldRs2 w) (immS w))
  | 2 => .ok (.sw (fieldRs1 w) (fieldRs2 w) (immS w))
  | _ => .error (.unknownFunct3 (fieldOpcode w) (fieldFunct3 w))

/-- Opcode 0x13: the nine register-immediate operations by `funct3`, the shifts by `funct7` too (R97 rows 19 to 27). -/
def decodeOpImm (w : Word) : Except DecodeReject Instr :=
  match (fieldFunct3 w).toNat with
  | 0 => .ok (.addi (fieldRd w) (fieldRs1 w) (immI w))
  | 1 =>
    if fieldFunct7 w = 0x00#7 then .ok (.slli (fieldRd w) (fieldRs1 w) (fieldRs2 w))
    else .error (.unknownFunct7 (fieldOpcode w) (fieldFunct3 w) (fieldFunct7 w))
  | 2 => .ok (.slti (fieldRd w) (fieldRs1 w) (immI w))
  | 3 => .ok (.sltiu (fieldRd w) (fieldRs1 w) (immI w))
  | 4 => .ok (.xori (fieldRd w) (fieldRs1 w) (immI w))
  | 5 =>
    if fieldFunct7 w = 0x00#7 then .ok (.srli (fieldRd w) (fieldRs1 w) (fieldRs2 w))
    else if fieldFunct7 w = 0x20#7 then .ok (.srai (fieldRd w) (fieldRs1 w) (fieldRs2 w))
    else .error (.unknownFunct7 (fieldOpcode w) (fieldFunct3 w) (fieldFunct7 w))
  | 6 => .ok (.ori (fieldRd w) (fieldRs1 w) (immI w))
  | 7 => .ok (.andi (fieldRd w) (fieldRs1 w) (immI w))
  | _ => .error (.unknownFunct3 (fieldOpcode w) (fieldFunct3 w))

/-- Opcode 0x33: the ten register-register operations by `funct7` and `funct3` (R97 rows 28 to 37). -/
def decodeOp (w : Word) : Except DecodeReject Instr :=
  match (fieldFunct7 w).toNat, (fieldFunct3 w).toNat with
  | 0x00, 0 => .ok (.add (fieldRd w) (fieldRs1 w) (fieldRs2 w))
  | 0x20, 0 => .ok (.sub (fieldRd w) (fieldRs1 w) (fieldRs2 w))
  | 0x00, 1 => .ok (.sll (fieldRd w) (fieldRs1 w) (fieldRs2 w))
  | 0x00, 2 => .ok (.slt (fieldRd w) (fieldRs1 w) (fieldRs2 w))
  | 0x00, 3 => .ok (.sltu (fieldRd w) (fieldRs1 w) (fieldRs2 w))
  | 0x00, 4 => .ok (.xor (fieldRd w) (fieldRs1 w) (fieldRs2 w))
  | 0x00, 5 => .ok (.srl (fieldRd w) (fieldRs1 w) (fieldRs2 w))
  | 0x20, 5 => .ok (.sra (fieldRd w) (fieldRs1 w) (fieldRs2 w))
  | 0x00, 6 => .ok (.or (fieldRd w) (fieldRs1 w) (fieldRs2 w))
  | 0x00, 7 => .ok (.and (fieldRd w) (fieldRs1 w) (fieldRs2 w))
  | _, _ => .error (.unknownFunct7 (fieldOpcode w) (fieldFunct3 w) (fieldFunct7 w))

/-- The instruction a word is. The sentinel comes "before anything else" (R100); then the major opcode (R96) and, in it, `funct3`
and `funct7` (R97); every other word is unrecognised (R101, R102). -/
def decodeWord (w : Word) : Except DecodeReject Instr :=
  if w = haltWord then .ok .halt
  else
    match (fieldOpcode w).toNat with
    | 0x37 => .ok (.lui (fieldRd w) (immU w))
    | 0x17 => .ok (.auipc (fieldRd w) (immU w))
    | 0x6F => .ok (.jal (fieldRd w) (immJ w))
    | 0x67 =>
      if fieldFunct3 w = 0#3 then .ok (.jalr (fieldRd w) (fieldRs1 w) (immI w))
      else .error (.unknownFunct3 (fieldOpcode w) (fieldFunct3 w))
    | 0x63 => decodeBranch w
    | 0x03 => decodeLoad w
    | 0x23 => decodeStore w
    | 0x13 => decodeOpImm w
    | 0x33 => decodeOp w
    | _ => .error (.unknownOpcode (fieldOpcode w))

/-- Four bytes in the order in which they lie in memory, the lowest address first, as one word: "the byte at `pc` holds bits 7:0
of the instruction" (R64, R90). -/
def wordOfBytes (b0 b1 b2 b3 : Byte) : Word := (b3 ++ b2 ++ b1 ++ b0 : BitVec 32)

/-- Decoding a byte string: the first four bytes are the word, the rest is returned (R90: there is one length). -/
def decodeBytes : List Byte → Except DecodeReject (Instr × List Byte)
  | b0 :: b1 :: b2 :: b3 :: rest =>
    match decodeWord (wordOfBytes b0 b1 b2 b3) with
    | .ok i => .ok (i, rest)
    | .error r => .error r
  | _ => .error .tooShort

/-- The instruction of a row of `spec/opcode_table.json`, given as the number `w` of its `nbits` bits: the bits are laid out as
the four bytes the block would fetch (R64) and decoded. -/
def decodeTableWord (nbits w : Nat) : Option Instr :=
  let n := w % 2 ^ nbits
  match decodeBytes [BitVec.ofNat 8 n, BitVec.ofNat 8 (n / 2 ^ 8), BitVec.ofNat 8 (n / 2 ^ 16), BitVec.ofNat 8 (n / 2 ^ 24)] with
  | .ok (i, _) => some i
  | .error _ => none

/-! ### Encoding (R94, R95, R97) -/

/-- The R format, and the shift-immediate variant of the I format with `shamt` in the place of `rs2` (R94). -/
def packR (funct7 : BitVec 7) (rs2 rs1 : Reg) (funct3 : BitVec 3) (rd : Reg) (opcode : BitVec 7) : Word :=
  (funct7 ++ rs2 ++ rs1 ++ funct3 ++ rd ++ opcode : BitVec 32)

/-- The I format (R94). -/
def packI (imm : Word) (rs1 : Reg) (funct3 : BitVec 3) (rd : Reg) (opcode : BitVec 7) : Word :=
  (imm.extractLsb' 0 12 ++ rs1 ++ funct3 ++ rd ++ opcode : BitVec 32)

/-- The S format (R94). -/
def packS (imm : Word) (rs2 rs1 : Reg) (funct3 : BitVec 3) (opcode : BitVec 7) : Word :=
  (imm.extractLsb' 5 7 ++ rs2 ++ rs1 ++ funct3 ++ imm.extractLsb' 0 5 ++ opcode : BitVec 32)

/-- The B format (R94). -/
def packB (imm : Word) (rs2 rs1 : Reg) (funct3 : BitVec 3) (opcode : BitVec 7) : Word :=
  (imm.extractLsb' 12 1 ++ imm.extractLsb' 5 6 ++ rs2 ++ rs1 ++ funct3 ++ imm.extractLsb' 1 4 ++ imm.extractLsb' 11 1 ++ opcode :
    BitVec 32)

/-- The U format (R94). -/
def packU (imm : Word) (rd : Reg) (opcode : BitVec 7) : Word := (imm.extractLsb' 12 20 ++ rd ++ opcode : BitVec 32)

/-- The J format (R94). -/
def packJ (imm : Word) (rd : Reg) (opcode : BitVec 7) : Word :=
  (imm.extractLsb' 20 1 ++ imm.extractLsb' 1 10 ++ imm.extractLsb' 11 1 ++ imm.extractLsb' 12 8 ++ rd ++ opcode : BitVec 32)

/-- The word of an instruction, by the row of R97 and the format of R94. For an instruction that is not well formed it is the word
of the operand bits that fit. -/
def encode : Instr → Word
  | .halt => haltWord
  | .lui rd imm => packU imm rd 0x37
  | .auipc rd imm => packU imm rd 0x17
  | .jal rd imm => packJ imm rd 0x6F
  | .jalr rd rs1 imm => packI imm rs1 0 rd 0x67
  | .beq rs1 rs2 imm => packB imm rs2 rs1 0 0x63
  | .bne rs1 rs2 imm => packB imm rs2 rs1 1 0x63
  | .blt rs1 rs2 imm => packB imm rs2 rs1 4 0x63
  | .bge rs1 rs2 imm => packB imm rs2 rs1 5 0x63
  | .bltu rs1 rs2 imm => packB imm rs2 rs1 6 0x63
  | .bgeu rs1 rs2 imm => packB imm rs2 rs1 7 0x63
  | .lb rd rs1 imm => packI imm rs1 0 rd 0x03
  | .lh rd rs1 imm => packI imm rs1 1 rd 0x03
  | .lw rd rs1 imm => packI imm rs1 2 rd 0x03
  | .lbu rd rs1 imm => packI imm rs1 4 rd 0x03
  | .lhu rd rs1 imm => packI imm rs1 5 rd 0x03
  | .sb rs1 rs2 imm => packS imm rs2 rs1 0 0x23
  | .sh rs1 rs2 imm => packS imm rs2 rs1 1 0x23
  | .sw rs1 rs2 imm => packS imm rs2 rs1 2 0x23
  | .addi rd rs1 imm => packI imm rs1 0 rd 0x13
  | .slti rd rs1 imm => packI imm rs1 2 rd 0x13
  | .sltiu rd rs1 imm => packI imm rs1 3 rd 0x13
  | .xori rd rs1 imm => packI imm rs1 4 rd 0x13
  | .ori rd rs1 imm => packI imm rs1 6 rd 0x13
  | .andi rd rs1 imm => packI imm rs1 7 rd 0x13
  | .slli rd rs1 shamt => packR 0x00 shamt rs1 1 rd 0x13
  | .srli rd rs1 shamt => packR 0x00 shamt rs1 5 rd 0x13
  | .srai rd rs1 shamt => packR 0x20 shamt rs1 5 rd 0x13
  | .add rd rs1 rs2 => packR 0x00 rs2 rs1 0 rd 0x33
  | .sub rd rs1 rs2 => packR 0x20 rs2 rs1 0 rd 0x33
  | .sll rd rs1 rs2 => packR 0x00 rs2 rs1 1 rd 0x33
  | .slt rd rs1 rs2 => packR 0x00 rs2 rs1 2 rd 0x33
  | .sltu rd rs1 rs2 => packR 0x00 rs2 rs1 3 rd 0x33
  | .xor rd rs1 rs2 => packR 0x00 rs2 rs1 4 rd 0x33
  | .srl rd rs1 rs2 => packR 0x00 rs2 rs1 5 rd 0x33
  | .sra rd rs1 rs2 => packR 0x20 rs2 rs1 5 rd 0x33
  | .or rd rs1 rs2 => packR 0x00 rs2 rs1 6 rd 0x33
  | .and rd rs1 rs2 => packR 0x00 rs2 rs1 7 rd 0x33

/-- The four bytes of a word as they lie in memory, the lowest address first (R64). -/
def bytesOfWord (w : Word) : List Byte :=
  [w.extractLsb' 0 8, w.extractLsb' 8 8, w.extractLsb' 16 8, w.extractLsb' 24 8]

end Sys2Proof
end

