-- ==== Sys2Proof/Machine/Op.lean ====
section
/-! DEFINITION. The operation a scheduler entry holds: the 37 operations, HALT and INVALID, their numbers, and the sets of
operations that the stages speak of (`30_encoding.md` R98). -/

namespace Sys2Proof.Machine

/-- The `op` field of RS, LSB and ROB entries: 39 values, "a model should use an enumerated type" (R98). -/
inductive Op where
  | lui
  | auipc
  | lb
  | lh
  | lw
  | lbu
  | lhu
  | addi
  | slti
  | sltiu
  | xori
  | ori
  | andi
  | slli
  | srli
  | srai
  | add
  | sub
  | sll
  | slt
  | sltu
  | xor
  | srl
  | sra
  | or
  | and
  | beq
  | bne
  | blt
  | bltu
  | bge
  | bgeu
  | jal
  | jalr
  | sb
  | sh
  | sw
  | halt
  | invalid
deriving DecidableEq, Repr

/-- The number R98 gives an operation, in 6 bits. "No rule depends on the numbers" (R98, D23). -/
def Op.code : Op → BitVec 6
  | .lui => 0
  | .auipc => 1
  | .lb => 2
  | .lh => 3
  | .lw => 4
  | .lbu => 5
  | .lhu => 6
  | .addi => 7
  | .slti => 8
  | .sltiu => 9
  | .xori => 10
  | .ori => 11
  | .andi => 12
  | .slli => 13
  | .srli => 14
  | .srai => 15
  | .add => 16
  | .sub => 17
  | .sll => 18
  | .slt => 19
  | .sltu => 20
  | .xor => 21
  | .srl => 22
  | .sra => 23
  | .or => 24
  | .and => 25
  | .beq => 26
  | .bne => 27
  | .blt => 28
  | .bltu => 29
  | .bge => 30
  | .bgeu => 31
  | .jal => 32
  | .jalr => 33
  | .sb => 34
  | .sh => 35
  | .sw => 36
  | .halt => 37
  | .invalid => 63

/-- `LOADS` (R98). -/
def Op.isLoad : Op → Bool
  | .lui => false
  | .auipc => false
  | .lb => true
  | .lh => true
  | .lw => true
  | .lbu => true
  | .lhu => true
  | .addi => false
  | .slti => false
  | .sltiu => false
  | .xori => false
  | .ori => false
  | .andi => false
  | .slli => false
  | .srli => false
  | .srai => false
  | .add => false
  | .sub => false
  | .sll => false
  | .slt => false
  | .sltu => false
  | .xor => false
  | .srl => false
  | .sra => false
  | .or => false
  | .and => false
  | .beq => false
  | .bne => false
  | .blt => false
  | .bltu => false
  | .bge => false
  | .bgeu => false
  | .jal => false
  | .jalr => false
  | .sb => false
  | .sh => false
  | .sw => false
  | .halt => false
  | .invalid => false

/-- `STORES` (R98). -/
def Op.isStore : Op → Bool
  | .lui => false
  | .auipc => false
  | .lb => false
  | .lh => false
  | .lw => false
  | .lbu => false
  | .lhu => false
  | .addi => false
  | .slti => false
  | .sltiu => false
  | .xori => false
  | .ori => false
  | .andi => false
  | .slli => false
  | .srli => false
  | .srai => false
  | .add => false
  | .sub => false
  | .sll => false
  | .slt => false
  | .sltu => false
  | .xor => false
  | .srl => false
  | .sra => false
  | .or => false
  | .and => false
  | .beq => false
  | .bne => false
  | .blt => false
  | .bltu => false
  | .bge => false
  | .bgeu => false
  | .jal => false
  | .jalr => false
  | .sb => true
  | .sh => true
  | .sw => true
  | .halt => false
  | .invalid => false

/-- `BRANCHES` (R98). -/
def Op.isBranch : Op → Bool
  | .lui => false
  | .auipc => false
  | .lb => false
  | .lh => false
  | .lw => false
  | .lbu => false
  | .lhu => false
  | .addi => false
  | .slti => false
  | .sltiu => false
  | .xori => false
  | .ori => false
  | .andi => false
  | .slli => false
  | .srli => false
  | .srai => false
  | .add => false
  | .sub => false
  | .sll => false
  | .slt => false
  | .sltu => false
  | .xor => false
  | .srl => false
  | .sra => false
  | .or => false
  | .and => false
  | .beq => true
  | .bne => true
  | .blt => true
  | .bltu => true
  | .bge => true
  | .bgeu => true
  | .jal => false
  | .jalr => false
  | .sb => false
  | .sh => false
  | .sw => false
  | .halt => false
  | .invalid => false

/-- `MEMOPS` = `LOADS` ∪ `STORES` (R98). -/
def Op.isMem (op : Op) : Bool := op.isLoad || op.isStore

/-- `REGWRITERS`: every operation except `BRANCHES`, `STORES` and INVALID; it includes HALT (R98). -/
def Op.writesReg (op : Op) : Bool := !op.isBranch && !op.isStore && op != .invalid

/-- The three access widths, 1, 2 and 4 bytes (R65). -/
inductive Width where
  | byte
  | half
  | word
deriving DecidableEq, Repr

/-- The number of bytes of an access (R65). -/
def Width.bytes : Width → Nat
  | .byte => 1
  | .half => 2
  | .word => 4

/-- `width(op)`: 1 for LB, LBU, SB; 2 for LH, LHU, SH; 4 for LW, SW (R98). No rule asks for the width of another operation. -/
def Op.width : Op → Width
  | .lui => .word
  | .auipc => .word
  | .lb => .byte
  | .lh => .half
  | .lw => .word
  | .lbu => .byte
  | .lhu => .half
  | .addi => .word
  | .slti => .word
  | .sltiu => .word
  | .xori => .word
  | .ori => .word
  | .andi => .word
  | .slli => .word
  | .srli => .word
  | .srai => .word
  | .add => .word
  | .sub => .word
  | .sll => .word
  | .slt => .word
  | .sltu => .word
  | .xor => .word
  | .srl => .word
  | .sra => .word
  | .or => .word
  | .and => .word
  | .beq => .word
  | .bne => .word
  | .blt => .word
  | .bltu => .word
  | .bge => .word
  | .bgeu => .word
  | .jal => .word
  | .jalr => .word
  | .sb => .byte
  | .sh => .half
  | .sw => .word
  | .halt => .word
  | .invalid => .word

end Sys2Proof.Machine
end

