-- ==== Sys2Proof/Machine/Record.lean ====
section
/-! DEFINITION. The instruction record that the external Decoder hands to Issue (`30_encoding.md` R91, R92, R100, R101). -/

namespace Sys2Proof.Machine

/-- "opcode-class tag"; `X` is the tag of an unrecognised word (R91). -/
inductive Cls where
  | U
  | I
  | S
  | B
  | J
  | R
  | X
deriving DecidableEq, Repr

/-- The fields of the instruction record (R91). -/
structure Record where
  cls : Cls
  op : Op
  rd : Reg
  rs1 : Reg
  rs2 : Reg
  imm : Word
deriving DecidableEq, Repr

/-- The record of an unrecognised word (R101). -/
def invalidRecord : Record := { cls := .X, op := .invalid, rd := 0, rs1 := 0, rs2 := 0, imm := 0 }

/-- The record of an instruction. A field its class does not carry is 0 (R91, R92, D23); the sentinel keeps the record of the ADDI
it encodes, with `op` HALT (R100, R141); a shift's `imm` is `zext_5` of its amount (R95). -/
def recordOf : Instr → Record
  | .halt => { cls := .I, op := .halt, rd := retReg, rs1 := 0, rs2 := 0, imm := 255 }
  | .lui rd imm => { cls := .U, op := .lui, rd := rd, rs1 := 0, rs2 := 0, imm := imm }
  | .auipc rd imm => { cls := .U, op := .auipc, rd := rd, rs1 := 0, rs2 := 0, imm := imm }
  | .jal rd imm => { cls := .J, op := .jal, rd := rd, rs1 := 0, rs2 := 0, imm := imm }
  | .jalr rd rs1 imm => { cls := .I, op := .jalr, rd := rd, rs1 := rs1, rs2 := 0, imm := imm }
  | .beq rs1 rs2 imm => { cls := .B, op := .beq, rd := 0, rs1 := rs1, rs2 := rs2, imm := imm }
  | .bne rs1 rs2 imm => { cls := .B, op := .bne, rd := 0, rs1 := rs1, rs2 := rs2, imm := imm }
  | .blt rs1 rs2 imm => { cls := .B, op := .blt, rd := 0, rs1 := rs1, rs2 := rs2, imm := imm }
  | .bge rs1 rs2 imm => { cls := .B, op := .bge, rd := 0, rs1 := rs1, rs2 := rs2, imm := imm }
  | .bltu rs1 rs2 imm => { cls := .B, op := .bltu, rd := 0, rs1 := rs1, rs2 := rs2, imm := imm }
  | .bgeu rs1 rs2 imm => { cls := .B, op := .bgeu, rd := 0, rs1 := rs1, rs2 := rs2, imm := imm }
  | .lb rd rs1 imm => { cls := .I, op := .lb, rd := rd, rs1 := rs1, rs2 := 0, imm := imm }
  | .lh rd rs1 imm => { cls := .I, op := .lh, rd := rd, rs1 := rs1, rs2 := 0, imm := imm }
  | .lw rd rs1 imm => { cls := .I, op := .lw, rd := rd, rs1 := rs1, rs2 := 0, imm := imm }
  | .lbu rd rs1 imm => { cls := .I, op := .lbu, rd := rd, rs1 := rs1, rs2 := 0, imm := imm }
  | .lhu rd rs1 imm => { cls := .I, op := .lhu, rd := rd, rs1 := rs1, rs2 := 0, imm := imm }
  | .sb rs1 rs2 imm => { cls := .S, op := .sb, rd := 0, rs1 := rs1, rs2 := rs2, imm := imm }
  | .sh rs1 rs2 imm => { cls := .S, op := .sh, rd := 0, rs1 := rs1, rs2 := rs2, imm := imm }
  | .sw rs1 rs2 imm => { cls := .S, op := .sw, rd := 0, rs1 := rs1, rs2 := rs2, imm := imm }
  | .addi rd rs1 imm => { cls := .I, op := .addi, rd := rd, rs1 := rs1, rs2 := 0, imm := imm }
  | .slti rd rs1 imm => { cls := .I, op := .slti, rd := rd, rs1 := rs1, rs2 := 0, imm := imm }
  | .sltiu rd rs1 imm => { cls := .I, op := .sltiu, rd := rd, rs1 := rs1, rs2 := 0, imm := imm }
  | .xori rd rs1 imm => { cls := .I, op := .xori, rd := rd, rs1 := rs1, rs2 := 0, imm := imm }
  | .ori rd rs1 imm => { cls := .I, op := .ori, rd := rd, rs1 := rs1, rs2 := 0, imm := imm }
  | .andi rd rs1 imm => { cls := .I, op := .andi, rd := rd, rs1 := rs1, rs2 := 0, imm := imm }
  | .slli rd rs1 shamt => { cls := .I, op := .slli, rd := rd, rs1 := rs1, rs2 := 0, imm := shamt.setWidth 32 }
  | .srli rd rs1 shamt => { cls := .I, op := .srli, rd := rd, rs1 := rs1, rs2 := 0, imm := shamt.setWidth 32 }
  | .srai rd rs1 shamt => { cls := .I, op := .srai, rd := rd, rs1 := rs1, rs2 := 0, imm := shamt.setWidth 32 }
  | .add rd rs1 rs2 => { cls := .R, op := .add, rd := rd, rs1 := rs1, rs2 := rs2, imm := 0 }
  | .sub rd rs1 rs2 => { cls := .R, op := .sub, rd := rd, rs1 := rs1, rs2 := rs2, imm := 0 }
  | .sll rd rs1 rs2 => { cls := .R, op := .sll, rd := rd, rs1 := rs1, rs2 := rs2, imm := 0 }
  | .slt rd rs1 rs2 => { cls := .R, op := .slt, rd := rd, rs1 := rs1, rs2 := rs2, imm := 0 }
  | .sltu rd rs1 rs2 => { cls := .R, op := .sltu, rd := rd, rs1 := rs1, rs2 := rs2, imm := 0 }
  | .xor rd rs1 rs2 => { cls := .R, op := .xor, rd := rd, rs1 := rs1, rs2 := rs2, imm := 0 }
  | .srl rd rs1 rs2 => { cls := .R, op := .srl, rd := rd, rs1 := rs1, rs2 := rs2, imm := 0 }
  | .sra rd rs1 rs2 => { cls := .R, op := .sra, rd := rd, rs1 := rs1, rs2 := rs2, imm := 0 }
  | .or rd rs1 rs2 => { cls := .R, op := .or, rd := rd, rs1 := rs1, rs2 := rs2, imm := 0 }
  | .and rd rs1 rs2 => { cls := .R, op := .and, rd := rd, rs1 := rs1, rs2 := rs2, imm := 0 }

/-- `Decode(w)`, total (R91), with the sentinel marked as R141 marks it; an unrecognised word is the INVALID record (R101). -/
def decodeRecord (w : Word) : Record :=
  match decodeWord w with
  | .ok i => recordOf i
  | .error _ => invalidRecord

end Sys2Proof.Machine
end

