-- ==== Sys2Proof/Machine/State.lean ====
section
/-! DEFINITION. The state of the block (`10_state.md`), the reasons for which a step can stop, and the state right after reset
(R43). One value is kept for each element: the current copy. `step` computes the next copy from it (R10, R121). -/

namespace Sys2Proof.Machine

/-- One entry of the Alias Table (R26). -/
structure RatEntry where
  /-- 0: "resolved"; 1: an in-flight instruction promises the register. -/
  busy : Bool
  /-- The ROB id of that instruction; meaningful only while `busy`. -/
  id : RobId
deriving DecidableEq, Repr

/-- One entry of the Reservation Station or of the Load-Store Buffer (R27, R28). -/
structure StationEntry where
  /-- The slot is occupied by an instruction that has not fired. -/
  busy : Bool
  op : Op
  /-- Value of the first operand slot, meaningful when `qj` = none. -/
  vj : Word
  /-- The ROB id whose result the first operand waits for. -/
  qj : Option RobId
  /-- Value of the second operand slot, meaningful when `qk` = none. -/
  vk : Word
  /-- The ROB id whose result the second operand waits for. -/
  qk : Option RobId
  /-- "immediate/displacement". -/
  imm : Word
  /-- The ROB id of this instruction. -/
  dest : RobId
deriving DecidableEq, Repr

/-- One entry of the Reorder Buffer (R29). -/
structure RobEntry where
  /-- 1 from issue until the entry's RS or LSB slot fires; 0 means ready. -/
  busy : Bool
  op : Op
  /-- Destination register index; 0 for branches, stores and INVALID. -/
  rd : Reg
  /-- The result, the store data, the "actual taken" boolean in bit 0, or the return address of a jump. -/
  value : Word
  /-- A store's effective address, the path a branch does not follow, or a JALR's target. -/
  addr : Word
  /-- A branch's predicted direction. -/
  pred : Bool
  /-- The instruction word was the sentinel. -/
  halt : Bool
deriving DecidableEq, Repr

/-- The two structures that hold instructions waiting to fire (R27, R28). -/
inductive Station where
  | rs
  | lsb
deriving DecidableEq, Repr

/-- The byte array, as the list of the bytes that are not 0x00, addresses rising (R60). What an unlisted address reads as is
`Mem.unlisted` of `Machine/Ops.lean`. -/
abbrev Mem := List Host.Cell

/-- The whole state of the block (`10_state.md`). -/
structure State where
  /-- The open parameters (R6). MODEL's own field: no step changes it (log entry 3). -/
  params : Params
  /-- General registers `x[0]` .. `x[31]` (R20). -/
  regs : Bank Word
  /-- The speculative fetch pointer (R22). -/
  pc : Word
  /-- Alias Table (R26). -/
  rat : Bank RatEntry
  /-- Reservation Station (R27). -/
  rs : Bank StationEntry
  /-- Load-Store Buffer (R28). -/
  lsb : Bank StationEntry
  /-- Reorder Buffer (R29). -/
  rob : Bank RobEntry
  /-- `rob.head` (R30). -/
  robHead : RobId
  /-- `rob.size`, 0 .. 32 (R30). -/
  robSize : BitVec 6
  /-- `pred.ctr` (R32). -/
  predCtr : BitVec 2
  /-- Flush flag (R33). -/
  flush : Bool
  /-- Block flag (R34). -/
  block : Bool
  /-- The stored bit of the draining flag (R35), written by Issue and by a flush and by nothing else (R124). The flag is read as
  `State.draining` of `Machine/Ops.lean`. -/
  drainBit : Bool
  /-- Halted flag (R36). -/
  halted : Bool
  /-- Fatal flag (R37). -/
  fatal : Bool
  /-- Memory (R38, R60). -/
  mem : Mem
  /-- The parameter `SELECT` as a stream of choices, one for each cycle in which an entry fires; empty is the default, oldest first
  (R175, U4). MODEL's own field (log entry 2). -/
  choices : List Nat
  /-- How many unspecified values have been handed out (U2). MODEL's own field (log entry 4). -/
  freeCount : Nat
deriving DecidableEq, Repr

/-- Which access to memory an event is about: the three memory ports of R7. -/
inductive Access where
  /-- Fetch reads the instruction word (R129). -/
  | fetch
  /-- A load reads its data when it fires (R182). -/
  | load
  /-- A store writes its data when it commits (R298). -/
  | store
deriving DecidableEq, Repr

/-- The reasons for which the machine stops with a fault: none. The one architectural error of the block is a state, `fatal` = 1,
in which it stays (R321, R126), and "every rule of this spec is total on the reachable states" (R335). -/
inductive Fault where
deriving DecidableEq, Repr

/-- The reasons for which the model refuses a step. -/
inductive Refusal where
  /-- Raised by an arm of `exec` whose instruction has no meaning yet. Safe: nothing can be proved of such a step. -/
  | notModelled (mnemonic : String)
  /-- Raised by the fetch, the fire of a load or the commit of a store that touches a byte at or above `MEM_BYTES`: "a model must
  refuse it" (R60, U3). It cannot happen with the default `MEM_BYTES` = 2^32. Safe: the hardware's behaviour there is not given. -/
  | beyondMemory (access : Access) (address : Word)
deriving DecidableEq, Repr

/-- A resolved Alias Table entry (R43; the id is "unspecified": DESIGN CHOICE 0, log entry 5). -/
def RatEntry.clear : RatEntry := { busy := false, id := 0 }

/-- A free RS or LSB entry as reset leaves it (R43; all fields but `busy` are "unspecified": DESIGN CHOICE, log entry 5). -/
def StationEntry.clear : StationEntry :=
  { busy := false, op := .lui, vj := 0, qj := none, vk := 0, qk := none, imm := 0, dest := 0 }

/-- An unoccupied ROB entry as reset leaves it (R43; every field is "unspecified": DESIGN CHOICE, log entry 5). -/
def RobEntry.clear : RobEntry := { busy := false, op := .lui, rd := 0, value := 0, addr := 0, pred := false, halt := false }

/-- The state after reset of a block built with parameters `p`, with the image `m` in memory (R43, R350, R351). -/
def State.resetWith (p : Params) (m : Mem) : State :=
  { params := p
    regs := Vector.replicate 32 0
    pc := p.resetPc
    rat := Vector.replicate 32 RatEntry.clear
    rs := Vector.replicate 32 StationEntry.clear
    lsb := Vector.replicate 32 StationEntry.clear
    rob := Vector.replicate 32 RobEntry.clear
    robHead := 0
    robSize := 0
    predCtr := p.predInit
    flush := false
    block := false
    drainBit := false
    halted := false
    fatal := false
    mem := m
    choices := []
    freeCount := 0 }

/-- The machine right after reset: the parameters at their defaults and no image (R43). A program comes in from outside (R351, log
entry 6). -/
def State.reset : State := State.resetWith Params.standard []

end Sys2Proof.Machine
end

