-- ==== Sys2Proof/Machine/Bank.lean ====
section
/-! DEFINITION. Reading, writing and sweeping the 32-entry structures of the block, and the list of their indices. -/

namespace Sys2Proof.Machine

/-- Entry `i` of a bank. -/
def Bank.get {α : Type} (v : Bank α) (i : BitVec 5) : α := v[i.toNat]'i.isLt

/-- The bank with entry `i` replaced. -/
def Bank.put {α : Type} (v : Bank α) (i : BitVec 5) (a : α) : Bank α := v.set i.toNat a i.isLt

/-- The bank with `f` applied to every entry. -/
def Bank.sweep {α : Type} (f : α → α) (v : Bank α) : Bank α := ⟨(v.toList.map f).toArray, by simp⟩

/-- The 32 indices, rising: register numbers, slot numbers or ROB ids. -/
def indices : List (BitVec 5) := (List.range 32).map (BitVec.ofNat 5)

end Sys2Proof.Machine
end

