-- ==== Sys2Proof/Machine/Ops.lean ====
section
/-! DEFINITION. The named operations over memory, registers and the ROB window, the one exception of the block (`raise Fatal`),
and the reset input (`20_memory.md` R60 to R71, `10_state.md` R21, R30, `60_exceptions.md` R321, `70_reset_and_hazards.md` R350). -/

namespace Sys2Proof.Machine

/-! ### Memory -/

/-- What an address reads as that nothing has written: "every other byte being 0x00" (R43, R82). -/
def Mem.unlisted : Byte := 0

/-- The byte at one address. -/
def Mem.read : Mem → Nat → Byte
  | [], _ => Mem.unlisted
  | (c, x) :: m, a => if a = c then x else Mem.read m a

/-- One byte written. The canonical form is kept: addresses rising, no entry that equals what an unlisted address reads as. -/
def Mem.write : Mem → Nat → Byte → Mem
  | [], a, b => if b = Mem.unlisted then [] else [(a, b)]
  | (c, x) :: m, a, b =>
    if a < c then (if b = Mem.unlisted then (c, x) :: m else (a, b) :: (c, x) :: m)
    else if a = c then (if b = Mem.unlisted then m else (a, b) :: m)
    else (c, x) :: Mem.write m a b

/-- The canonical form from address `lo` on. -/
def Mem.wfFrom : Nat → Mem → Bool
  | _, [] => true
  | lo, (c, x) :: m => decide (lo ≤ c) && decide (c < 4294967296) && x != Mem.unlisted && Mem.wfFrom (c + 1) m

/-- The canonical form: addresses strictly rising and below 2^32, no entry 0x00. -/
def Mem.wf (m : Mem) : Bool := Mem.wfFrom 0 m

/-- `M[a]`, the byte at a 32-bit address (R60, R61). -/
def memByte (m : Mem) (a : Word) : Byte := m.read a.toNat

/-- `M[a] <- b`. -/
def putByte (m : Mem) (a : Word) (b : Byte) : Mem := m.write a.toNat b

/-- `MemRead(addr, n)`: little-endian, addresses modulo 2^32, "the raw zero-extended quantity" (R61). -/
def memRead (m : Mem) (a : Word) : Width → Word
  | .byte => (memByte m a).setWidth 32
  | .half => (memByte m (a + 1) ++ memByte m a : BitVec 16).setWidth 32
  | .word => (memByte m (a + 3) ++ memByte m (a + 2) ++ memByte m (a + 1) ++ memByte m a : BitVec 32)

/-- `MemWrite(addr, n, v)`: `M[addr+i] <- v[8i+7:8i]` for `i` below `n`, addresses modulo 2^32 (R62). -/
def memWrite (m : Mem) (a : Word) (n : Width) (v : Word) : Mem :=
  match n with
  | .byte => putByte m a (v.extractLsb' 0 8)
  | .half => putByte (putByte m a (v.extractLsb' 0 8)) (a + 1) (v.extractLsb' 8 8)
  | .word =>
    putByte
      (putByte (putByte (putByte m a (v.extractLsb' 0 8)) (a + 1) (v.extractLsb' 8 8)) (a + 2) (v.extractLsb' 16 8))
      (a + 3) (v.extractLsb' 24 8)

/-- `a` is one of the `n` bytes from `base` on, addresses modulo 2^32: the byte set of R173. -/
def inAccess (base : Word) (n : Width) (a : Word) : Bool :=
  (List.range n.bytes).any fun i => base + BitVec.ofNat 32 i == a

/-- Every byte of the access lies below `MEM_BYTES` (R60). -/
def inMemory (p : Params) (a : Word) (n : Width) : Bool :=
  (List.range n.bytes).all fun i => decide ((a + BitVec.ofNat 32 i).toNat < p.memBytes)

/-- A read through a port: refused when a byte lies at or above `MEM_BYTES` (R60, U3). -/
def readPort (s : State) (k : Access) (a : Word) (n : Width) : Except Refusal Word :=
  if inMemory s.params a n then .ok (memRead s.mem a n) else .error (.beyondMemory k a)

/-- `sext_8` of the low 8 bits (R9). -/
def sext8 (v : Word) : Word := (v.setWidth 8).signExtend 32

/-- `sext_16` of the low 16 bits (R9). -/
def sext16 (v : Word) : Word := (v.setWidth 16).signExtend 32

/-- `zext_8` of the low 8 bits (R9). -/
def zext8 (v : Word) : Word := (v.setWidth 8).setWidth 32

/-- `zext_16` of the low 16 bits (R9). -/
def zext16 (v : Word) : Word := (v.setWidth 16).setWidth 32

/-! ### Registers -/

/-- `x[r]`; register 0 "always reads as zero regardless of writes" (R21). -/
def readReg (s : State) (r : Reg) : Word := if r = 0 then 0 else Bank.get s.regs r

/-- `x[r] <- v`; for register 0 nothing is written (R9, R21). -/
def writeReg (s : State) (r : Reg) (v : Word) : State :=
  { s with regs := if r = 0 then s.regs else Bank.put s.regs r v }

/-! ### The ROB window (R11, R30) -/

/-- `age(k) = (k - rob.head) mod 32`. -/
def age (s : State) (k : RobId) : Nat := (k - s.robHead).toNat

/-- `occupied(k)` is `age(k) < rob.size`. -/
def occupied (s : State) (k : RobId) : Bool := decide (age s k < s.robSize.toNat)

/-- `older(k, d)` is `occupied(k) and age(k) < age(d)`. -/
def older (s : State) (k d : RobId) : Bool := occupied s k && decide (age s k < age s d)

/-- `tail = (rob.head + rob.size) mod 32`. -/
def tail (s : State) : RobId := s.robHead + s.robSize.setWidth 5

/-- "The ROB is full iff `rob.size = 32`" (R30). -/
def robFull (s : State) : Bool := s.robSize == 32

/-- Entry `k` of the ROB. -/
def robAt (s : State) (k : RobId) : RobEntry := Bank.get s.rob k

/-- The structure an operation is routed to (R142): the entries of the RS or of the LSB. -/
def stationBank (s : State) : Station → Bank StationEntry
  | .rs => s.rs
  | .lsb => s.lsb

/-! ### The exception, the reset input, the outputs -/

/-- `raise Fatal`, the only exception of the block: "sets `fatal` and carries no information" (R9, R321). Nothing is saved, no mode
changes, the pc is not redirected (R324). There is no return from it (R325): "only reset leaves the state" (R321). -/
def raiseFatal (s : State) : State := { s with fatal := true }

/-- A cycle that ends with `rst` asserted: the reset state, with the parameters the block was built with; "Reset does not change
memory" (R350, U14). An input of the block and no part of `step` (log entry 6). -/
def assertReset (s : State) : State := State.resetWith s.params s.mem

/-- `exit_value`: `x[10][7:0]`, "continuously driven, meaningful once `halted` = 1" (R301). -/
def exitValue (s : State) : BitVec 8 := (readReg s retReg).extractLsb' 0 8

/-- The draining flag: "1 from the issue of the sentinel until the run halts or a flush discards that sentinel" (R35). Issue sets the
stored bit (R155), a flush clears it (R295), and in a halted state the flag is over (R35, R42 (d), log entry 7). -/
def State.draining (s : State) : Bool := s.drainBit && !s.halted

/-- A terminal state: halted or fatal (R12, R126). -/
def terminal (s : State) : Bool := s.halted || s.fatal

/-- Fetch, and with it Decode/Issue, acts in this cycle (R126, R127, R128). -/
def fetchActs (s : State) : Bool := !terminal s && !s.flush && !s.block && !s.draining

end Sys2Proof.Machine
end

