-- ==== Sys2Proof/Machine/Operands.lean ====
section
/-! DEFINITION. The operand forms: what an instruction asks Issue to put into its two operand slots and its immediate, and how
Issue resolves a source register (`41_decode_issue.md` R146 to R149). -/

namespace Sys2Proof.Machine

/-- The Common Data Bus pair of a cycle (R31). -/
structure Cdb where
  id : RobId
  value : Word
deriving DecidableEq, Repr

/-- What stands in an operand column of the table of R149: a value that is known at issue, or `Resolve` of a source register. -/
inductive Source where
  /-- A value known at issue: `(v, none)`. -/
  | known (v : Word)
  /-- `Resolve(s)`. -/
  | reg (s : Reg)
deriving DecidableEq, Repr

/-- An operand slot after issue: the value and the pending tag (R27). -/
structure Operand where
  value : Word
  tag : Option RobId
deriving DecidableEq, Repr

/-- `Resolve(s)` (R146): register 0 is the literal 0 (R147); an unaliased register is read; a producer that is ready gives its ROB
value; one that broadcasts in this very cycle gives the CDB value (R148); otherwise its id is the pending tag, and the value is
unspecified: `free`. -/
def resolve (s : State) (cdb : Option Cdb) (free : Word) (r : Reg) : Operand :=
  if r = 0 then { value := 0, tag := none }
  else if (Bank.get s.rat r).busy = false then { value := readReg s r, tag := none }
  else if (robAt s (Bank.get s.rat r).id).busy = false then
    { value := (robAt s (Bank.get s.rat r).id).value, tag := none }
  else
    match cdb with
    | none => { value := free, tag := some (Bank.get s.rat r).id }
    | some c =>
      if c.id = (Bank.get s.rat r).id then { value := c.value, tag := none }
      else { value := free, tag := some (Bank.get s.rat r).id }

/-- An operand column of R149, resolved. -/
def capture (s : State) (cdb : Option Cdb) (free : Word) : Source → Operand
  | .known v => { value := v, tag := none }
  | .reg r => resolve s cdb free r

/-- What one instruction asks of Issue: its rows of the tables of R149, R151 and R157. -/
structure IssuePlan where
  /-- The operation stored in the RS/LSB and the ROB entry (R141). -/
  op : Op
  /-- The `rd` of the ROB entry (R151), the register claimed when the operation writes one (R150). -/
  rd : Reg
  /-- The column `(vj, qj)` of R149. -/
  j : Source
  /-- The column `(vk, qk)` of R149. -/
  k : Source
  /-- The column `imm` of R149. -/
  imm : Word
  /-- The `value` written into the ROB entry at issue; `none` where R151 says unspecified. -/
  value : Option Word
  /-- The `addr` written into the ROB entry at issue; `none` where R151 says unspecified. -/
  addr : Option Word
  /-- The `pred` of the ROB entry (R154). -/
  pred : Bool
  /-- `is_halt` (R141). -/
  halt : Bool
  /-- The next pc (R157). -/
  nextPc : Word
deriving DecidableEq, Repr

/-- The row shared by every operation whose next pc is `p + 4` and whose ROB `value` and `addr` are unspecified until it fires
(R149, R151, R157): the operand columns are the arguments. -/
def plainPlan (r : Record) (p : Word) (j k : Source) : IssuePlan :=
  { op := r.op, rd := r.rd, j := j, k := k, imm := r.imm, value := none, addr := none, pred := false, halt := false,
    nextPc := p + 4 }

/-- LUI: no source (R149). -/
def upperPlan (r : Record) (p : Word) : IssuePlan := plainPlan r p (.known 0) (.known 0)

/-- AUIPC: its own address in `vj` (R149, D12). -/
def pcRelPlan (r : Record) (p : Word) : IssuePlan := plainPlan r p (.known p) (.known 0)

/-- Register-immediate arithmetic, the immediate shifts and the loads: `Resolve(rs1)` and the immediate (R149). -/
def regImmPlan (r : Record) (p : Word) : IssuePlan := plainPlan r p (.reg r.rs1) (.known 0)

/-- Register-register arithmetic and the stores: `Resolve(rs1)` and `Resolve(rs2)` (R149). -/
def regRegPlan (r : Record) (p : Word) : IssuePlan := plainPlan r p (.reg r.rs1) (.reg r.rs2)

/-- JAL: its own address in `vj`, the link value recorded, the target the next pc (R149, R151, R152). -/
def jalPlan (r : Record) (p : Word) : IssuePlan :=
  { plainPlan r p (.known p) (.known 0) with value := some (p + 4), nextPc := p + r.imm }

/-- JALR: `Resolve(rs1)`, its own address in `vk`, the link value recorded (R149, R151, R153). -/
def jalrPlan (r : Record) (p : Word) : IssuePlan :=
  { plainPlan r p (.reg r.rs1) (.known p) with value := some (p + 4) }

/-- The branches: `Resolve(rs1)` and `Resolve(rs2)`; the predicted path is the next pc, the other one is recorded in `addr`
(R149, R154). `taken` is the prediction. -/
def branchPlan (r : Record) (p : Word) (taken : Bool) : IssuePlan :=
  { plainPlan r p (.reg r.rs1) (.reg r.rs2) with
    addr := some (if taken then p + 4 else p + r.imm)
    pred := taken
    nextPc := if taken then p + r.imm else p + 4 }

/-- The sentinel: the ADDI it encodes, marked (R149, R155). -/
def haltPlan (r : Record) (p : Word) : IssuePlan :=
  { plainPlan r p (.reg r.rs1) (.known 0) with halt := true }

/-- INVALID: no source, no destination (R149, R156). -/
def invalidPlan (p : Word) : IssuePlan := plainPlan invalidRecord p (.known 0) (.known 0)

end Sys2Proof.Machine
end

