-- ==== Sys2Proof/Machine/Flags.lean ====
section
/-! DEFINITION. The block has no flag and no condition code (`10_state.md` R23). What it has in their place: the comparisons that
write 0 or 1 into a register or a ROB entry (R189, R239), and the two-bit counter of the branch predictor (`49_predictor.md`). -/

namespace Sys2Proof.Machine

/-- "the result is exactly 0x00000001 or 0x00000000" (R231, R239). -/
def boolWord (b : Bool) : Word := if b then 1 else 0

/-- `s(a) < s(b)` (R8). -/
def signedLess (a b : Word) : Bool := decide (a.toInt < b.toInt)

/-- `u(a) < u(b)` (R8). -/
def unsignedLess (a b : Word) : Bool := decide (a.toNat < b.toNat)

/-- `Predict(c) = c[1]` (R311). -/
def predict (c : BitVec 2) : Bool := c.getLsbD 1

/-- `taken(c) = min(c + 1, 3)` (R312). -/
def takenCtr (c : BitVec 2) : BitVec 2 := if c = 3 then 3 else c + 1

/-- `untaken(c) = max(c - 1, 0)` (R313). -/
def untakenCtr (c : BitVec 2) : BitVec 2 := if c = 0 then 0 else c - 1

/-- The table of R314: a correct prediction of a taken branch increments, everything else decrements. -/
def updateCtr (predicted actual : Bool) (c : BitVec 2) : BitVec 2 :=
  match predicted, actual with
  | true, true => takenCtr c
  | false, false => untakenCtr c
  | false, true => untakenCtr c
  | true, false => untakenCtr c

end Sys2Proof.Machine
end

