-- ==== Sys2Proof/Machine/Alu.lean ====
section
/-! DEFINITION. The Functional Unit: one definition for each row of `ALU` (`42_execute_cdb.md` R188, R189), and the table. -/

namespace Sys2Proof.Machine

/-- `sh(x) = x[4:0]`, the shift amount (R189, R239). -/
def shiftAmount (x : Word) : Nat := (x.setWidth 5).toNat

/-- The LUI row of R189 (R200). -/
def aluLui (imm : Word) : Word := imm

/-- The AUIPC row of R189 (R201). -/
def aluAuipc (vj imm : Word) : Word := vj + imm

/-- The ADDI row of R189 (R230). -/
def aluAddi (vj imm : Word) : Word := vj + imm

/-- The HALT row of R189 (R278). -/
def aluHalt (vj imm : Word) : Word := vj + imm

/-- The SLTI row of R189 (R231). -/
def aluSlti (vj imm : Word) : Word := boolWord (signedLess vj imm)

/-- The SLTIU row of R189 (R232). -/
def aluSltiu (vj imm : Word) : Word := boolWord (unsignedLess vj imm)

/-- The XORI row of R189 (R233). -/
def aluXori (vj imm : Word) : Word := vj ^^^ imm

/-- The ORI row of R189 (R234). -/
def aluOri (vj imm : Word) : Word := vj ||| imm

/-- The ANDI row of R189 (R235). -/
def aluAndi (vj imm : Word) : Word := vj &&& imm

/-- The SLLI row of R189 (R236). -/
def aluSlli (vj imm : Word) : Word := vj <<< shiftAmount imm

/-- The SRLI row of R189 (R237). -/
def aluSrli (vj imm : Word) : Word := vj >>> shiftAmount imm

/-- The SRAI row of R189 (R238). -/
def aluSrai (vj imm : Word) : Word := vj.sshiftRight (shiftAmount imm)

/-- The ADD row of R189 (R250). -/
def aluAdd (vj vk : Word) : Word := vj + vk

/-- The SUB row of R189 (R251). -/
def aluSub (vj vk : Word) : Word := vj - vk

/-- The SLL row of R189 (R252). -/
def aluSll (vj vk : Word) : Word := vj <<< shiftAmount vk

/-- The SLT row of R189 (R253). -/
def aluSlt (vj vk : Word) : Word := boolWord (signedLess vj vk)

/-- The SLTU row of R189 (R254). -/
def aluSltu (vj vk : Word) : Word := boolWord (unsignedLess vj vk)

/-- The XOR row of R189 (R255). -/
def aluXor (vj vk : Word) : Word := vj ^^^ vk

/-- The SRL row of R189 (R256). -/
def aluSrl (vj vk : Word) : Word := vj >>> shiftAmount vk

/-- The SRA row of R189 (R257). -/
def aluSra (vj vk : Word) : Word := vj.sshiftRight (shiftAmount vk)

/-- The OR row of R189 (R258). -/
def aluOr (vj vk : Word) : Word := vj ||| vk

/-- The AND row of R189 (R259). -/
def aluAnd (vj vk : Word) : Word := vj &&& vk

/-- The BEQ row of R189 (R270). -/
def aluBeq (vj vk : Word) : Word := boolWord (vj == vk)

/-- The BNE row of R189 (R271). -/
def aluBne (vj vk : Word) : Word := boolWord (vj != vk)

/-- The BLT row of R189 (R272). -/
def aluBlt (vj vk : Word) : Word := boolWord (signedLess vj vk)

/-- The BGE row of R189 (R273). -/
def aluBge (vj vk : Word) : Word := boolWord (!signedLess vj vk)

/-- The BLTU row of R189 (R274). -/
def aluBltu (vj vk : Word) : Word := boolWord (unsignedLess vj vk)

/-- The BGEU row of R189 (R275). -/
def aluBgeu (vj vk : Word) : Word := boolWord (!unsignedLess vj vk)

/-- The JAL row of R189 (R276). -/
def aluJal (vj : Word) : Word := vj + 4

/-- `ALU(op, vj, vk, imm)` (R189). `none` where R189 has no row: the loads, the stores and JALR, which "do not go through this
table", and INVALID, the unrecognised opcode (R186). -/
def alu (op : Op) (vj vk imm : Word) : Option Word :=
  match op with
  | .lui => some (aluLui imm)
  | .auipc => some (aluAuipc vj imm)
  | .lb => none
  | .lh => none
  | .lw => none
  | .lbu => none
  | .lhu => none
  | .addi => some (aluAddi vj imm)
  | .slti => some (aluSlti vj imm)
  | .sltiu => some (aluSltiu vj imm)
  | .xori => some (aluXori vj imm)
  | .ori => some (aluOri vj imm)
  | .andi => some (aluAndi vj imm)
  | .slli => some (aluSlli vj imm)
  | .srli => some (aluSrli vj imm)
  | .srai => some (aluSrai vj imm)
  | .add => some (aluAdd vj vk)
  | .sub => some (aluSub vj vk)
  | .sll => some (aluSll vj vk)
  | .slt => some (aluSlt vj vk)
  | .sltu => some (aluSltu vj vk)
  | .xor => some (aluXor vj vk)
  | .srl => some (aluSrl vj vk)
  | .sra => some (aluSra vj vk)
  | .or => some (aluOr vj vk)
  | .and => some (aluAnd vj vk)
  | .beq => some (aluBeq vj vk)
  | .bne => some (aluBne vj vk)
  | .blt => some (aluBlt vj vk)
  | .bltu => some (aluBltu vj vk)
  | .bge => some (aluBge vj vk)
  | .bgeu => some (aluBgeu vj vk)
  | .jal => some (aluJal vj)
  | .jalr => none
  | .sb => none
  | .sh => none
  | .sw => none
  | .halt => some (aluHalt vj imm)
  | .invalid => none

end Sys2Proof.Machine
end

