-- ==== Sys2Proof/Machine/Execute.lean ====
section
/-! DEFINITION. The Execute stage: which entry fires, what it computes, and the writes of the fire (`42_execute_cdb.md` R170 to
R187). -/

namespace Sys2Proof.Machine

/-! ### Eligibility (R170 to R174) -/

/-- "no pending tags": the entry is busy and both its operands are resolved (R170). -/
def ready (e : StationEntry) : Bool := e.busy && e.qj.isNone && e.qk.isNone

/-- The effective address `vj + imm` modulo 2^32 (R69, R171). -/
def effectiveAddress (e : StationEntry) : Word := e.vj + e.imm

/-- `Overlap(a1, n1, a2, n2)`: the two byte sets intersect, addresses modulo 2^32 (R173). -/
def overlap (a1 : Word) (n1 : Width) (a2 : Word) (n2 : Width) : Bool :=
  (List.range n1.bytes).any fun i => inAccess a2 n2 (a1 + BitVec.ofNat 32 i)

/-- R171 for a load: every older store is ready and overlaps none of the load's bytes. -/
def loadPasses (s : State) (e : StationEntry) : Bool :=
  indices.all fun k =>
    !(older s k e.dest && (robAt s k).op.isStore) ||
      (!(robAt s k).busy && !overlap (robAt s k).addr (robAt s k).op.width (effectiveAddress e) e.op.width)

/-- R172 for a store: every older load and store is ready. -/
def storePasses (s : State) (e : StationEntry) : Bool :=
  indices.all fun k => !(older s k e.dest && (robAt s k).op.isMem) || !(robAt s k).busy

/-- The entry is in the eligible set of the cycle (R174): a ready RS entry, or a ready LSB load or store that passes its check. The
LSB holds loads and stores and nothing else (R28); an LSB entry with another operation is never eligible. -/
def eligible (s : State) (st : Station) (e : StationEntry) : Bool :=
  ready e &&
    match st with
    | .rs => true
    | .lsb => (e.op.isLoad && loadPasses s e) || (e.op.isStore && storePasses s e)

/-- A slot of one of the two structures. -/
structure Pick where
  station : Station
  slot : Slot
deriving DecidableEq, Repr

/-- The entry in a slot. -/
def entryAt (s : State) (p : Pick) : StationEntry := Bank.get (stationBank s p.station) p.slot

/-- All 64 slots, the RS before the LSB, each by rising index. -/
def allPicks : List Pick := indices.map (Pick.mk .rs) ++ indices.map (Pick.mk .lsb)

/-- The eligible set (R174), as a list. -/
def eligiblePicks (s : State) : List Pick := allPicks.filter fun p => eligible s p.station (entryAt s p)

/-- The pick of the smallest `age`, the oldest in program order (R175). Equal ages cannot occur in a reachable state (R42 (a)); the
earlier pick of the list would then be taken (DESIGN CHOICE, log entry 10). -/
def oldestOf (s : State) : List Pick → Option Pick
  | [] => none
  | p :: ps =>
    match oldestOf s ps with
    | none => some p
    | some q => if age s (entryAt s q).dest < age s (entryAt s p).dest then some q else some p

/-- Selection: the oldest eligible entry (R175); when the stream of choices says otherwise, the eligible entry it names, counted
modulo their number (`SELECT` as "any choice of one eligible entry", D2, U4, log entry 2). -/
def select (s : State) : Option Pick :=
  match s.choices with
  | [] => oldestOf s (eligiblePicks s)
  | c :: _ => (eligiblePicks s)[c % (eligiblePicks s).length]?

/-! ### Firing (R176 to R186) -/

/-- What a fired entry computes (R176). -/
inductive Computed where
  /-- The value for the ROB entry and the CDB, and the `taddr` for the ROB entry's `addr`. -/
  | result (value : Word) (taddr : Option Word)
  /-- `raise Fatal`: the operation is unrecognised (R186). -/
  | unrecognised
deriving DecidableEq, Repr

/-- The outcome of an operation that goes through the ALU; one that R189 has no row for is an unrecognised opcode (R186). -/
def Computed.ofAlu : Option Word → Computed
  | some v => .result v none
  | none => .unrecognised

/-- LB: `sext_8(MemRead(a, 1))` (R176, R211). -/
def fireLb (s : State) (e : StationEntry) : Except Refusal Computed :=
  (readPort s .load (effectiveAddress e) .byte).map fun raw => .result (sext8 raw) none

/-- LH: `sext_16(MemRead(a, 2))` (R176, R212). -/
def fireLh (s : State) (e : StationEntry) : Except Refusal Computed :=
  (readPort s .load (effectiveAddress e) .half).map fun raw => .result (sext16 raw) none

/-- LW: `MemRead(a, 4)` (R176, R213). -/
def fireLw (s : State) (e : StationEntry) : Except Refusal Computed :=
  (readPort s .load (effectiveAddress e) .word).map fun raw => .result raw none

/-- LBU: `zext_8(MemRead(a, 1))` (R176, R214). -/
def fireLbu (s : State) (e : StationEntry) : Except Refusal Computed :=
  (readPort s .load (effectiveAddress e) .byte).map fun raw => .result (zext8 raw) none

/-- LHU: `zext_16(MemRead(a, 2))` (R176, R215). -/
def fireLhu (s : State) (e : StationEntry) : Except Refusal Computed :=
  (readPort s .load (effectiveAddress e) .half).map fun raw => .result (zext16 raw) none

/-- A store computes its data, all 32 bits, and its address; it accesses no memory (R176, R183). -/
def fireStore (e : StationEntry) : Computed := .result e.vk (some (effectiveAddress e))

/-- JALR: the link `vk + 4`, and the target `vj + imm` with bit 0 cleared (R176, R185). -/
def fireJalr (e : StationEntry) : Computed := .result (e.vk + 4) (some ((e.vj + e.imm) &&& 0xFFFFFFFE))

/-- What entry `e` computes when it fires, by its operation (R176). -/
def fireEntry (s : State) (e : StationEntry) : Except Refusal Computed :=
  match e.op with
  | .lui => .ok (Computed.ofAlu (alu .lui e.vj e.vk e.imm))
  | .auipc => .ok (Computed.ofAlu (alu .auipc e.vj e.vk e.imm))
  | .lb => fireLb s e
  | .lh => fireLh s e
  | .lw => fireLw s e
  | .lbu => fireLbu s e
  | .lhu => fireLhu s e
  | .addi => .ok (Computed.ofAlu (alu .addi e.vj e.vk e.imm))
  | .slti => .ok (Computed.ofAlu (alu .slti e.vj e.vk e.imm))
  | .sltiu => .ok (Computed.ofAlu (alu .sltiu e.vj e.vk e.imm))
  | .xori => .ok (Computed.ofAlu (alu .xori e.vj e.vk e.imm))
  | .ori => .ok (Computed.ofAlu (alu .ori e.vj e.vk e.imm))
  | .andi => .ok (Computed.ofAlu (alu .andi e.vj e.vk e.imm))
  | .slli => .ok (Computed.ofAlu (alu .slli e.vj e.vk e.imm))
  | .srli => .ok (Computed.ofAlu (alu .srli e.vj e.vk e.imm))
  | .srai => .ok (Computed.ofAlu (alu .srai e.vj e.vk e.imm))
  | .add => .ok (Computed.ofAlu (alu .add e.vj e.vk e.imm))
  | .sub => .ok (Computed.ofAlu (alu .sub e.vj e.vk e.imm))
  | .sll => .ok (Computed.ofAlu (alu .sll e.vj e.vk e.imm))
  | .slt => .ok (Computed.ofAlu (alu .slt e.vj e.vk e.imm))
  | .sltu => .ok (Computed.ofAlu (alu .sltu e.vj e.vk e.imm))
  | .xor => .ok (Computed.ofAlu (alu .xor e.vj e.vk e.imm))
  | .srl => .ok (Computed.ofAlu (alu .srl e.vj e.vk e.imm))
  | .sra => .ok (Computed.ofAlu (alu .sra e.vj e.vk e.imm))
  | .or => .ok (Computed.ofAlu (alu .or e.vj e.vk e.imm))
  | .and => .ok (Computed.ofAlu (alu .and e.vj e.vk e.imm))
  | .beq => .ok (Computed.ofAlu (alu .beq e.vj e.vk e.imm))
  | .bne => .ok (Computed.ofAlu (alu .bne e.vj e.vk e.imm))
  | .blt => .ok (Computed.ofAlu (alu .blt e.vj e.vk e.imm))
  | .bltu => .ok (Computed.ofAlu (alu .bltu e.vj e.vk e.imm))
  | .bge => .ok (Computed.ofAlu (alu .bge e.vj e.vk e.imm))
  | .bgeu => .ok (Computed.ofAlu (alu .bgeu e.vj e.vk e.imm))
  | .jal => .ok (Computed.ofAlu (alu .jal e.vj e.vk e.imm))
  | .jalr => .ok (fireJalr e)
  | .sb => .ok (fireStore e)
  | .sh => .ok (fireStore e)
  | .sw => .ok (fireStore e)
  | .halt => .ok (Computed.ofAlu (alu .halt e.vj e.vk e.imm))
  | .invalid => .ok (Computed.ofAlu (alu .invalid e.vj e.vk e.imm))

/-- The writes of one fire: which slot, which ROB entry, the value and the `taddr` (R177, R178, R180). -/
structure Fire where
  pick : Pick
  dest : RobId
  value : Word
  taddr : Option Word
deriving DecidableEq, Repr

/-- What Execute does in a cycle (R176). -/
inductive ExecResult where
  /-- Nothing is eligible: no write, no CDB. -/
  | idle
  /-- An INVALID entry was selected: `fatal`, no write, no CDB (R186). -/
  | fatal
  /-- An entry fires. -/
  | fired (f : Fire)
deriving DecidableEq, Repr

/-- `Execute(cur, M)` (R176). -/
def execute (s : State) : Except Refusal ExecResult :=
  match select s with
  | none => .ok .idle
  | some p =>
    match fireEntry s (entryAt s p) with
    | .error r => .error r
    | .ok .unrecognised => .ok .fatal
    | .ok (.result v t) => .ok (.fired { pick := p, dest := (entryAt s p).dest, value := v, taddr := t })

/-- The CDB pair of the cycle: every fired entry drives it, an INVALID entry drives nothing (R179). -/
def ExecResult.cdb : ExecResult → Option Cdb
  | .idle => none
  | .fatal => none
  | .fired f => some { id := f.dest, value := f.value }

/-- The ROB entry of the fired instruction: value, `busy` 0, and `addr` when there is a `taddr` (R177). -/
def completeRob (f : Fire) (r : RobEntry) : RobEntry :=
  { r with busy := false, value := f.value, addr := f.taddr.getD r.addr }

/-- One operand slot sees the broadcast (R180). -/
def wakeEntry (d : RobId) (v : Word) (e : StationEntry) : StationEntry :=
  if e.busy then
    { e with
      vj := if e.qj = some d then v else e.vj
      qj := if e.qj = some d then none else e.qj
      vk := if e.qk = some d then v else e.vk
      qk := if e.qk = some d then none else e.qk }
  else e

/-- The fired slot is freed, its other fields kept (R178); every other busy entry sees the broadcast (R180). -/
def fireBank (f : Fire) (st : Station) (v : Bank StationEntry) : Bank StationEntry :=
  if f.pick.station = st then
    Bank.put (Bank.sweep (wakeEntry f.dest f.value) v) f.pick.slot { Bank.get v f.pick.slot with busy := false }
  else Bank.sweep (wakeEntry f.dest f.value) v

/-- The writes of a fire (R177, R178, R180). The choice that was used leaves the stream (log entry 2). -/
def applyFire (f : Fire) (n : State) : State :=
  { n with
    rob := Bank.put n.rob f.dest (completeRob f (Bank.get n.rob f.dest))
    rs := fireBank f .rs n.rs
    lsb := fireBank f .lsb n.lsb
    choices := n.choices.tail }

/-- The writes of Execute (R176, R186). -/
def applyExecute (n : State) : ExecResult → State
  | .idle => n
  | .fatal => raiseFatal n
  | .fired f => applyFire f n

end Sys2Proof.Machine
end

