-- ==== Sys2Proof/Machine/Commit.lean ====
section
/-! DEFINITION. The Commit stage: the retirement of the ROB head by class, the misprediction flush, the halt (`48_commit.md` R290
to R302). -/

namespace Sys2Proof.Machine

/-- The five ways in which a ready head retires (R292). -/
inductive CommitClass where
  | branch
  | store
  | jumpRegister
  | halt
  | register
  /-- INVALID: it never becomes ready (R302). -/
  | never
deriving DecidableEq, Repr

/-- The class of an operation: the table of R292. -/
def Op.commitClass : Op → CommitClass
  | .lui => .register
  | .auipc => .register
  | .lb => .register
  | .lh => .register
  | .lw => .register
  | .lbu => .register
  | .lhu => .register
  | .addi => .register
  | .slti => .register
  | .sltiu => .register
  | .xori => .register
  | .ori => .register
  | .andi => .register
  | .slli => .register
  | .srli => .register
  | .srai => .register
  | .add => .register
  | .sub => .register
  | .sll => .register
  | .slt => .register
  | .sltu => .register
  | .xor => .register
  | .srl => .register
  | .sra => .register
  | .or => .register
  | .and => .register
  | .beq => .branch
  | .bne => .branch
  | .blt => .branch
  | .bltu => .branch
  | .bge => .branch
  | .bgeu => .branch
  | .jal => .register
  | .jalr => .jumpRegister
  | .sb => .store
  | .sh => .store
  | .sw => .store
  | .halt => .halt
  | .invalid => .never

/-- The class of a ROB entry. "When the head entry has `e.halt = 1`" it is the sentinel (R301); otherwise its operation decides
(R292). In a reachable state the two agree (log entry 9). -/
def RobEntry.commitClass (e : RobEntry) : CommitClass := if e.halt then .halt else e.op.commitClass

/-- `actual = e.value[0]` (R294). -/
def actualTaken (e : RobEntry) : Bool := e.value.getLsbD 0

/-- What Commit does in a cycle. -/
inductive CommitResult where
  /-- The ROB is empty or its head is busy (R290), or a ready INVALID head, which cannot occur, waits (R302, log entry 8). -/
  | idle
  /-- The head is a mispredicted branch (R294, R295). -/
  | mispredicted (e : RobEntry)
  /-- The head retires (R291), in the given class. -/
  | retired (c : CommitClass) (e : RobEntry)
deriving DecidableEq, Repr

/-- `Commit(cur)`: at most the head retires, when it is ready (R290), by its class (R292). A store that touches a byte at or above
`MEM_BYTES` is refused (R60, U3). -/
def commit (s : State) : Except Refusal CommitResult :=
  if s.robSize = 0 then .ok .idle
  else if (robAt s s.robHead).busy then .ok .idle
  else
    match (robAt s s.robHead).commitClass with
    | .never => .ok .idle
    | .branch =>
      if actualTaken (robAt s s.robHead) = (robAt s s.robHead).pred then .ok (.retired .branch (robAt s s.robHead))
      else .ok (.mispredicted (robAt s s.robHead))
    | .store =>
      if inMemory s.params (robAt s s.robHead).addr (robAt s s.robHead).op.width then
        .ok (.retired .store (robAt s s.robHead))
      else .error (.beyondMemory .store (robAt s s.robHead).addr)
    | .jumpRegister => .ok (.retired .jumpRegister (robAt s s.robHead))
    | .halt => .ok (.retired .halt (robAt s s.robHead))
    | .register => .ok (.retired .register (robAt s s.robHead))

/-- The slot leaves the window: `rob.head <- (h + 1) mod 32`, `rob.size` decremented (R291). -/
def retireHead (n : State) : State := { n with robHead := n.robHead + 1, robSize := n.robSize - 1 }

/-- The Alias Table after the commit of ROB id `h` with destination `r`: the alias is cleared if it still names `h` (R300). -/
def clearClaim (rat : Bank RatEntry) (r : Reg) (h : RobId) : Bank RatEntry :=
  if r ≠ 0 ∧ (Bank.get rat r).busy = true ∧ (Bank.get rat r).id = h then
    Bank.put rat r { Bank.get rat r with busy := false }
  else rat

/-- A correctly predicted branch: the counter moves toward the outcome, nothing else changes (R297, R314). -/
def commitBranch (n : State) (e : RobEntry) : State :=
  { n with predCtr := updateCtr e.pred (actualTaken e) n.predCtr }

/-- A store: `MemWrite(e.addr, width(e.op), e.value)` (R298). -/
def commitStore (n : State) (e : RobEntry) : State :=
  { n with mem := memWrite n.mem e.addr e.op.width e.value }

/-- A register-writing operation with ROB id `h`: the register write and the alias clear (R299, R300). -/
def commitRegister (n : State) (h : RobId) (e : RobEntry) : State :=
  { writeReg n e.rd e.value with rat := clearClaim n.rat e.rd h }

/-- JALR: as a register-writing operation, and `block <- 0`, `pc <- e.addr` (R293). -/
def commitJalr (n : State) (h : RobId) (e : RobEntry) : State :=
  { commitRegister n h e with block := false, pc := e.addr }

/-- The sentinel: `halted <- 1` and the alias clear; `x[10]` is not written (R301). The stored bit of `draining` is not
written either (R124). -/
def commitHalt (n : State) (h : RobId) (e : RobEntry) : State :=
  { n with halted := true, rat := clearClaim n.rat e.rd h }

/-- The effect of a retirement by class, beside leaving the window (R292). -/
def commitEffect (n : State) (h : RobId) (c : CommitClass) (e : RobEntry) : State :=
  match c with
  | .branch => commitBranch n e
  | .store => commitStore n e
  | .jumpRegister => commitJalr n h e
  | .halt => commitHalt n h e
  | .register => commitRegister n h e
  | .never => n

/-- The state after a misprediction (R295): the whole of the cycle's writes. `e` is the mispredicted head. The counter is
decremented whatever the direction was (R296). -/
def flushState (s : State) (e : RobEntry) : State :=
  { s with
    pc := e.addr
    robHead := 0
    robSize := 0
    rs := Bank.sweep (fun x => { x with busy := false }) s.rs
    lsb := Bank.sweep (fun x => { x with busy := false }) s.lsb
    rat := Bank.sweep (fun x => { x with busy := false }) s.rat
    block := false
    drainBit := false
    flush := true
    predCtr := updateCtr e.pred (actualTaken e) s.predCtr }

/-- The writes of Commit other than a flush; `h` is the head of the current copy (R291 to R301). -/
def applyCommit (h : RobId) (n : State) : CommitResult → State
  | .idle => n
  | .mispredicted _ => n
  | .retired c e => retireHead (commitEffect n h c e)

/-- Commit writes the pc in this cycle: the commit of a JALR (R293). -/
def CommitResult.redirects : CommitResult → Bool
  | .idle => false
  | .mispredicted _ => false
  | .retired c _ => c == .jumpRegister

end Sys2Proof.Machine
end

