-- ==== Sys2Proof/Machine/Cycle.lean ====
section
/-! DEFINITION. Decode/Issue and the composition of a cycle: the stall, the allocation, the writes of Issue, and how the writes of
one cycle are merged (`41_decode_issue.md` R142 to R159, `40_cycle_fetch.md` R124 to R130). -/

namespace Sys2Proof.Machine

/-- The target structure: the LSB for memory operations, the RS for every other (R142). -/
def routeOf (op : Op) : Station := if op.isMem then .lsb else .rs

/-- The free slot of the lowest index, if there is one (R145). -/
def freeSlot (v : Bank StationEntry) : Option Slot := indices.find? fun i => !(Bank.get v i).busy

/-- Issue fails: the ROB is full, or every entry of the target structure is busy, in the current copy (R143). -/
def stalls (s : State) (op : Op) : Bool := robFull s || (freeSlot (stationBank s (routeOf op))).isNone

/-- The RS or LSB entry of an issue (R149): the operands captured from the current copy and the CDB of the cycle, `dest` the tail.
Unspecified operand values are free values (log entry 4). -/
def issuedEntry (s : State) (cdb : Option Cdb) (p : IssuePlan) : StationEntry :=
  { busy := true
    op := p.op
    vj := (capture s cdb (Config.freeWord s.freeCount) p.j).value
    qj := (capture s cdb (Config.freeWord s.freeCount) p.j).tag
    vk := (capture s cdb (Config.freeWord (s.freeCount + 1)) p.k).value
    qk := (capture s cdb (Config.freeWord (s.freeCount + 1)) p.k).tag
    imm := p.imm
    dest := tail s }

/-- The ROB entry of an issue (R151): `busy` 1; `value` and `addr` where the table gives them, free values where it says
unspecified (log entry 4). -/
def issuedRob (s : State) (p : IssuePlan) : RobEntry :=
  { busy := true
    op := p.op
    rd := p.rd
    value := p.value.getD (Config.freeWord (s.freeCount + 2))
    addr := p.addr.getD (Config.freeWord (s.freeCount + 3))
    pred := p.pred
    halt := p.halt }

/-- The Alias Table after the claim of ROB id `b` (R150): an operation in `REGWRITERS` with `rd` other than 0 claims `rd`. -/
def claim (rat : Bank RatEntry) (p : IssuePlan) (b : RobId) : Bank RatEntry :=
  if p.op.writesReg = true ∧ p.rd ≠ 0 then Bank.put rat p.rd { busy := true, id := b } else rat

/-- One structure after an issue into slot `i` of structure `t` (R145). -/
def placeEntry (t st : Station) (i : Slot) (e : StationEntry) (v : Bank StationEntry) : Bank StationEntry :=
  if t = st then Bank.put v i e else v

/-- The writes of an issue into slot `i` (R159), on top of `n`, which holds the writes of Execute and Commit; everything is computed
from the current copy `s`. A claim overrides a clear of the same cycle, and `rob.size` receives both counts (R124). When Commit
has redirected the pc, "Commit wins" (R124). -/
def applyIssue (s n : State) (cdb : Option Cdb) (redirected : Bool) (p : IssuePlan) (i : Slot) : State :=
  { n with
    rs := placeEntry (routeOf p.op) .rs i (issuedEntry s cdb p) n.rs
    lsb := placeEntry (routeOf p.op) .lsb i (issuedEntry s cdb p) n.lsb
    rob := Bank.put n.rob (tail s) (issuedRob s p)
    robSize := n.robSize + 1
    rat := claim n.rat p (tail s)
    block := n.block || p.op == .jalr
    drainBit := n.drainBit || p.halt
    pc := if redirected then n.pc else p.nextPc
    freeCount := s.freeCount + 4 }

/-- `FetchIssue` after Decode (R159): nothing when Fetch hands nothing over; on a stall nothing is written and the pc holds (R130,
R143); otherwise the issue. -/
def issue (s n : State) (cdb : Option Cdb) (redirected : Bool) : Option IssuePlan → State
  | none => n
  | some p =>
    if stalls s p.op then n
    else
      match freeSlot (stationBank s (routeOf p.op)) with
      | none => n
      | some i => applyIssue s n cdb redirected p i

/-- `Cycle` (R125) of a state that is neither terminal nor in its flush cycle, with what Fetch and Decode hand to Issue. The writes
of Execute, Commit and Issue are applied in this order (R125); a misprediction discards the others (R124, R181). -/
def activeCycle (s : State) (handed : Option IssuePlan) : Host.Outcome State Fault Refusal :=
  match execute s with
  | .error r => .refused r
  | .ok ex =>
    match commit s with
    | .error r => .refused r
    | .ok (.mispredicted e) => .next (flushState s e)
    | .ok cm => .next (issue s (applyCommit s.robHead (applyExecute s ex) cm) ex.cdb cm.redirects handed)

/-- `Cycle` (R125) with the instruction that Fetch would hand to Issue: a terminal state stays as it is (R126), a flush cycle only
clears the flag (R127), and while `block` or `draining` is set Fetch hands nothing over (R128). -/
def cycle (s : State) (handed : Option IssuePlan) : Host.Outcome State Fault Refusal :=
  if terminal s then .next s
  else if s.flush then .next { s with flush := false }
  else if s.block || s.draining then activeCycle s none
  else activeCycle s handed

/-- What Fetch reads in a cycle in which it acts: `MemRead(pc, 4)` (R129). -/
def fetchWord (s : State) : Except Refusal Word := readPort s .fetch s.pc .word

end Sys2Proof.Machine
end

