-- ==== Sys2Proof/Machine/BranchJump.lean ====
section
/-! DEFINITION. The branches and jumps (`47_ops_branch_jump.md`): each definition is the cycle in which Fetch hands the instruction to Issue (R159; log entry 1); what it computes when it fires is in `Alu.lean` and `Execute.lean`, its commit in `Commit.lean`. -/

namespace Sys2Proof.Machine

/-- BEQ, branch if equal (R269, R270): to the RS with `Resolve(rs1)` and `Resolve(rs2)`; fetch goes on along the predicted path (R154). -/
def execBeq (rs1 rs2 : Reg) (imm : Word) (s : State) : Host.Outcome State Fault Refusal :=
  cycle s (some (branchPlan (recordOf (.beq rs1 rs2 imm)) s.pc (predict s.predCtr)))

/-- BNE, branch if not equal (R269, R271): to the RS with `Resolve(rs1)` and `Resolve(rs2)`; fetch goes on along the predicted path (R154). -/
def execBne (rs1 rs2 : Reg) (imm : Word) (s : State) : Host.Outcome State Fault Refusal :=
  cycle s (some (branchPlan (recordOf (.bne rs1 rs2 imm)) s.pc (predict s.predCtr)))

/-- BLT, branch if less than, signed (R269, R272): to the RS with `Resolve(rs1)` and `Resolve(rs2)`; fetch goes on along the predicted path (R154). -/
def execBlt (rs1 rs2 : Reg) (imm : Word) (s : State) : Host.Outcome State Fault Refusal :=
  cycle s (some (branchPlan (recordOf (.blt rs1 rs2 imm)) s.pc (predict s.predCtr)))

/-- BGE, branch if greater or equal, signed (R269, R273): to the RS with `Resolve(rs1)` and `Resolve(rs2)`; fetch goes on along the predicted path (R154). -/
def execBge (rs1 rs2 : Reg) (imm : Word) (s : State) : Host.Outcome State Fault Refusal :=
  cycle s (some (branchPlan (recordOf (.bge rs1 rs2 imm)) s.pc (predict s.predCtr)))

/-- BLTU, branch if less than, unsigned (R269, R274): to the RS with `Resolve(rs1)` and `Resolve(rs2)`; fetch goes on along the predicted path (R154). -/
def execBltu (rs1 rs2 : Reg) (imm : Word) (s : State) : Host.Outcome State Fault Refusal :=
  cycle s (some (branchPlan (recordOf (.bltu rs1 rs2 imm)) s.pc (predict s.predCtr)))

/-- BGEU, branch if greater or equal, unsigned (R269, R275): to the RS with `Resolve(rs1)` and `Resolve(rs2)`; fetch goes on along the predicted path (R154). -/
def execBgeu (rs1 rs2 : Reg) (imm : Word) (s : State) : Host.Outcome State Fault Refusal :=
  cycle s (some (branchPlan (recordOf (.bgeu rs1 rs2 imm)) s.pc (predict s.predCtr)))

/-- JAL (R276): to the RS with its own address in `vj`; the link is recorded and the pc redirected at issue (R152); claims `rd`. -/
def execJal (rd : Reg) (imm : Word) (s : State) : Host.Outcome State Fault Refusal :=
  cycle s (some (jalPlan (recordOf (.jal rd imm)) s.pc))

/-- JALR (R277): to the RS with `Resolve(rs1)` and its own address in `vk`; the link is recorded and `block` set (R153); claims `rd`. -/
def execJalr (rd rs1 : Reg) (imm : Word) (s : State) : Host.Outcome State Fault Refusal :=
  cycle s (some (jalrPlan (recordOf (.jalr rd rs1 imm)) s.pc))

end Sys2Proof.Machine
end

