-- ==== Sys2Proof/Machine/ImmArith.lean ====
section
/-! DEFINITION. Register-immediate arithmetic (`45_ops_imm_arith.md`): each definition is the cycle in which Fetch hands the instruction to Issue (R159; log entry 1); what it computes when it fires is in `Alu.lean` and `Execute.lean`, its commit in `Commit.lean`. -/

namespace Sys2Proof.Machine

/-- ADDI, add immediate (R229, R230): to the RS with `Resolve(rs1)` and the immediate; claims `rd`. -/
def execAddi (rd rs1 : Reg) (imm : Word) (s : State) : Host.Outcome State Fault Refusal :=
  cycle s (some (regImmPlan (recordOf (.addi rd rs1 imm)) s.pc))

/-- SLTI, set if less than immediate, signed (R229, R231): to the RS with `Resolve(rs1)` and the immediate; claims `rd`. -/
def execSlti (rd rs1 : Reg) (imm : Word) (s : State) : Host.Outcome State Fault Refusal :=
  cycle s (some (regImmPlan (recordOf (.slti rd rs1 imm)) s.pc))

/-- SLTIU, set if less than immediate, unsigned (R229, R232): to the RS with `Resolve(rs1)` and the immediate; claims `rd`. -/
def execSltiu (rd rs1 : Reg) (imm : Word) (s : State) : Host.Outcome State Fault Refusal :=
  cycle s (some (regImmPlan (recordOf (.sltiu rd rs1 imm)) s.pc))

/-- XORI, exclusive-or immediate (R229, R233): to the RS with `Resolve(rs1)` and the immediate; claims `rd`. -/
def execXori (rd rs1 : Reg) (imm : Word) (s : State) : Host.Outcome State Fault Refusal :=
  cycle s (some (regImmPlan (recordOf (.xori rd rs1 imm)) s.pc))

/-- ORI, or immediate (R229, R234): to the RS with `Resolve(rs1)` and the immediate; claims `rd`. -/
def execOri (rd rs1 : Reg) (imm : Word) (s : State) : Host.Outcome State Fault Refusal :=
  cycle s (some (regImmPlan (recordOf (.ori rd rs1 imm)) s.pc))

/-- ANDI, and immediate (R229, R235): to the RS with `Resolve(rs1)` and the immediate; claims `rd`. -/
def execAndi (rd rs1 : Reg) (imm : Word) (s : State) : Host.Outcome State Fault Refusal :=
  cycle s (some (regImmPlan (recordOf (.andi rd rs1 imm)) s.pc))

/-- SLLI, shift left logical immediate (R229, R236): to the RS with `Resolve(rs1)` and the amount; claims `rd`. -/
def execSlli (rd rs1 : Reg) (shamt : BitVec 5) (s : State) : Host.Outcome State Fault Refusal :=
  cycle s (some (regImmPlan (recordOf (.slli rd rs1 shamt)) s.pc))

/-- SRLI, shift right logical immediate (R229, R237): to the RS with `Resolve(rs1)` and the amount; claims `rd`. -/
def execSrli (rd rs1 : Reg) (shamt : BitVec 5) (s : State) : Host.Outcome State Fault Refusal :=
  cycle s (some (regImmPlan (recordOf (.srli rd rs1 shamt)) s.pc))

/-- SRAI, shift right arithmetic immediate (R229, R238): to the RS with `Resolve(rs1)` and the amount; claims `rd`. -/
def execSrai (rd rs1 : Reg) (shamt : BitVec 5) (s : State) : Host.Outcome State Fault Refusal :=
  cycle s (some (regImmPlan (recordOf (.srai rd rs1 shamt)) s.pc))

end Sys2Proof.Machine
end

