-- ==== Sys2Proof/Machine/LoadStore.lean ====
section
/-! DEFINITION. The loads and stores (`44_ops_load_store.md`): each definition is the cycle in which Fetch hands the instruction to Issue (R159; log entry 1); what it computes when it fires is in `Alu.lean` and `Execute.lean`, its commit in `Commit.lean`. -/

namespace Sys2Proof.Machine

/-- LB, load byte signed (R210, R211): to the LSB with `Resolve(rs1)` and the displacement; claims `rd`. -/
def execLb (rd rs1 : Reg) (imm : Word) (s : State) : Host.Outcome State Fault Refusal :=
  cycle s (some (regImmPlan (recordOf (.lb rd rs1 imm)) s.pc))

/-- LH, load halfword signed (R210, R212): to the LSB with `Resolve(rs1)` and the displacement; claims `rd`. -/
def execLh (rd rs1 : Reg) (imm : Word) (s : State) : Host.Outcome State Fault Refusal :=
  cycle s (some (regImmPlan (recordOf (.lh rd rs1 imm)) s.pc))

/-- LW, load word (R210, R213): to the LSB with `Resolve(rs1)` and the displacement; claims `rd`. -/
def execLw (rd rs1 : Reg) (imm : Word) (s : State) : Host.Outcome State Fault Refusal :=
  cycle s (some (regImmPlan (recordOf (.lw rd rs1 imm)) s.pc))

/-- LBU, load byte unsigned (R210, R214): to the LSB with `Resolve(rs1)` and the displacement; claims `rd`. -/
def execLbu (rd rs1 : Reg) (imm : Word) (s : State) : Host.Outcome State Fault Refusal :=
  cycle s (some (regImmPlan (recordOf (.lbu rd rs1 imm)) s.pc))

/-- LHU, load halfword unsigned (R210, R215): to the LSB with `Resolve(rs1)` and the displacement; claims `rd`. -/
def execLhu (rd rs1 : Reg) (imm : Word) (s : State) : Host.Outcome State Fault Refusal :=
  cycle s (some (regImmPlan (recordOf (.lhu rd rs1 imm)) s.pc))

/-- SB, store byte (R216, R217): to the LSB with `Resolve(rs1)`, `Resolve(rs2)` and the displacement; no claim. -/
def execSb (rs1 rs2 : Reg) (imm : Word) (s : State) : Host.Outcome State Fault Refusal :=
  cycle s (some (regRegPlan (recordOf (.sb rs1 rs2 imm)) s.pc))

/-- SH, store halfword (R216, R218): to the LSB with `Resolve(rs1)`, `Resolve(rs2)` and the displacement; no claim. -/
def execSh (rs1 rs2 : Reg) (imm : Word) (s : State) : Host.Outcome State Fault Refusal :=
  cycle s (some (regRegPlan (recordOf (.sh rs1 rs2 imm)) s.pc))

/-- SW, store word (R216, R219): to the LSB with `Resolve(rs1)`, `Resolve(rs2)` and the displacement; no claim. -/
def execSw (rs1 rs2 : Reg) (imm : Word) (s : State) : Host.Outcome State Fault Refusal :=
  cycle s (some (regRegPlan (recordOf (.sw rs1 rs2 imm)) s.pc))

end Sys2Proof.Machine
end

