-- ==== Sys2Proof/Machine/RegArith.lean ====
section
/-! DEFINITION. Register-register arithmetic (`46_ops_reg_arith.md`): each definition is the cycle in which Fetch hands the instruction to Issue (R159; log entry 1); what it computes when it fires is in `Alu.lean` and `Execute.lean`, its commit in `Commit.lean`. -/

namespace Sys2Proof.Machine

/-- ADD, add (R249, R250): to the RS with `Resolve(rs1)` and `Resolve(rs2)`; claims `rd`. -/
def execAdd (rd rs1 rs2 : Reg) (s : State) : Host.Outcome State Fault Refusal :=
  cycle s (some (regRegPlan (recordOf (.add rd rs1 rs2)) s.pc))

/-- SUB, subtract (R249, R251): to the RS with `Resolve(rs1)` and `Resolve(rs2)`; claims `rd`. -/
def execSub (rd rs1 rs2 : Reg) (s : State) : Host.Outcome State Fault Refusal :=
  cycle s (some (regRegPlan (recordOf (.sub rd rs1 rs2)) s.pc))

/-- SLL, shift left logical (R249, R252): to the RS with `Resolve(rs1)` and `Resolve(rs2)`; claims `rd`. -/
def execSll (rd rs1 rs2 : Reg) (s : State) : Host.Outcome State Fault Refusal :=
  cycle s (some (regRegPlan (recordOf (.sll rd rs1 rs2)) s.pc))

/-- SLT, set if less than, signed (R249, R253): to the RS with `Resolve(rs1)` and `Resolve(rs2)`; claims `rd`. -/
def execSlt (rd rs1 rs2 : Reg) (s : State) : Host.Outcome State Fault Refusal :=
  cycle s (some (regRegPlan (recordOf (.slt rd rs1 rs2)) s.pc))

/-- SLTU, set if less than, unsigned (R249, R254): to the RS with `Resolve(rs1)` and `Resolve(rs2)`; claims `rd`. -/
def execSltu (rd rs1 rs2 : Reg) (s : State) : Host.Outcome State Fault Refusal :=
  cycle s (some (regRegPlan (recordOf (.sltu rd rs1 rs2)) s.pc))

/-- XOR, exclusive or (R249, R255): to the RS with `Resolve(rs1)` and `Resolve(rs2)`; claims `rd`. -/
def execXor (rd rs1 rs2 : Reg) (s : State) : Host.Outcome State Fault Refusal :=
  cycle s (some (regRegPlan (recordOf (.xor rd rs1 rs2)) s.pc))

/-- SRL, shift right logical (R249, R256): to the RS with `Resolve(rs1)` and `Resolve(rs2)`; claims `rd`. -/
def execSrl (rd rs1 rs2 : Reg) (s : State) : Host.Outcome State Fault Refusal :=
  cycle s (some (regRegPlan (recordOf (.srl rd rs1 rs2)) s.pc))

/-- SRA, shift right arithmetic (R249, R257): to the RS with `Resolve(rs1)` and `Resolve(rs2)`; claims `rd`. -/
def execSra (rd rs1 rs2 : Reg) (s : State) : Host.Outcome State Fault Refusal :=
  cycle s (some (regRegPlan (recordOf (.sra rd rs1 rs2)) s.pc))

/-- OR, or (R249, R258): to the RS with `Resolve(rs1)` and `Resolve(rs2)`; claims `rd`. -/
def execOr (rd rs1 rs2 : Reg) (s : State) : Host.Outcome State Fault Refusal :=
  cycle s (some (regRegPlan (recordOf (.or rd rs1 rs2)) s.pc))

/-- AND, and (R249, R259): to the RS with `Resolve(rs1)` and `Resolve(rs2)`; claims `rd`. -/
def execAnd (rd rs1 rs2 : Reg) (s : State) : Host.Outcome State Fault Refusal :=
  cycle s (some (regRegPlan (recordOf (.and rd rs1 rs2)) s.pc))

end Sys2Proof.Machine
end

