-- ==== Sys2Proof/Machine/Sentinel.lean ====
section
/-! DEFINITION. The halt sentinel and the unrecognised word (`47_ops_branch_jump.md` R278, R279): each definition is the cycle in which Fetch hands the instruction to Issue (R159; log entry 1); what it computes when it fires is in `Alu.lean` and `Execute.lean`, its commit in `Commit.lean`. -/

namespace Sys2Proof.Machine

/-- HALT (R278): issued as the ADDI it encodes, marked; claims x10 and sets `draining` (R155). -/
def execHalt (s : State) : Host.Outcome State Fault Refusal :=
  cycle s (some (haltPlan (recordOf .halt) s.pc))

/-- A word that is no instruction (R279): issued to the RS with no source, no destination and no claim; `fatal` when it fires (R156, R186). -/
def execInvalid (s : State) : Host.Outcome State Fault Refusal :=
  cycle s (some (invalidPlan s.pc))

end Sys2Proof.Machine
end

