-- ==== Sys2Proof/Machine/UpperImm.lean ====
section
/-! DEFINITION. LUI and AUIPC (`43_ops_upper_imm.md`): each definition is the cycle in which Fetch hands the instruction to Issue (R159; log entry 1); what it computes when it fires is in `Alu.lean` and `Execute.lean`, its commit in `Commit.lean`. -/

namespace Sys2Proof.Machine

/-- LUI (R200): to the RS with no source; claims `rd`. -/
def execLui (rd : Reg) (imm : Word) (s : State) : Host.Outcome State Fault Refusal :=
  cycle s (some (upperPlan (recordOf (.lui rd imm)) s.pc))

/-- AUIPC (R201): to the RS with its own address in `vj`; claims `rd`. -/
def execAuipc (rd : Reg) (imm : Word) (s : State) : Host.Outcome State Fault Refusal :=
  cycle s (some (pcRelPlan (recordOf (.auipc rd imm)) s.pc))

end Sys2Proof.Machine
end

