-- ==== Sys2Proof/Machine/Step.lean ====
section
/-! DEFINITION. One clock cycle of the block, `Cycle` (`40_cycle_fetch.md` R120, R125), and the state in which a given word is the
next one fetched. -/

namespace Sys2Proof.Machine

/-- One clock cycle. In a cycle in which Fetch acts (R128) the word at the pc is read and decoded (R129, R140) and its meaning is the
cycle; an unrecognised word is issued as INVALID (R156). In the other cycles nothing is handed to Issue (R126 to R128). -/
def step (s : State) : Host.Outcome State Fault Refusal :=
  if fetchActs s then
    match fetchWord s with
    | .error r => .refused r
    | .ok w =>
      match decodeWord w with
      | .ok i => exec i s
      | .error _ => execInvalid s
  else cycle s none

/-- The state with the `nbits`-bit word `w` in the four bytes at the pc, where Fetch reads its next instruction (R129, R90). It
stands for the host's loading of the image (R351, log entry 6). -/
def State.withFetchWord (s : State) (nbits w : Nat) : State :=
  { s with mem := memWrite s.mem s.pc .word (BitVec.ofNat 32 (w % 2 ^ nbits)) }

end Sys2Proof.Machine
end

