-- ==== Sys2Proof/Machine/Image.lean ====
section
/-! DEFINITION. The program image: the text format the Memory component reads, and the block as the host starts it on an image
(`20_memory.md` R80 to R82, `70_reset_and_hazards.md` R351). It is the host's work before reset is released, and no part of
`step`. -/

namespace Sys2Proof.Machine

/-- The value of a hexadecimal digit 0-9, a-f, A-F; `none` for every other character (R80). -/
def hexDigit (c : Char) : Option (BitVec 4) :=
  if 48 ≤ c.toNat ∧ c.toNat ≤ 57 then some (BitVec.ofNat 4 (c.toNat - 48))
  else if 97 ≤ c.toNat ∧ c.toNat ≤ 102 then some (BitVec.ofNat 4 (c.toNat - 87))
  else if 65 ≤ c.toNat ∧ c.toNat ≤ 70 then some (BitVec.ofNat 4 (c.toNat - 55))
  else none

/-- The loader between two characters. `inAddress` is set while it reads the digits that follow an `@` (R80). -/
structure Loader where
  cursor : Word
  pending : Option (BitVec 4)
  inAddress : Bool
  mem : Mem
deriving DecidableEq, Repr

/-- One character of the stream (R80): `@` starts an address, taken modulo 2^32, and drops a pending digit; two digits are a byte,
the first the high nibble; every other character is ignored but ends an address. -/
def loadChar (l : Loader) (c : Char) : Loader :=
  if c.toNat = 64 then { l with cursor := 0, pending := none, inAddress := true }
  else
    match hexDigit c with
    | none => { l with inAddress := false }
    | some d =>
      if l.inAddress then { l with cursor := (l.cursor.setWidth 28 ++ d : BitVec 32) }
      else
        match l.pending with
        | none => { l with pending := some d }
        | some h =>
          { l with mem := putByte l.mem l.cursor (h ++ d : BitVec 8), cursor := l.cursor + 1, pending := none }

/-- The memory after the image text, on a memory whose bytes are all 0x00 (R80, R82). An odd trailing digit is dropped. -/
def loadImage (text : List Char) : Mem :=
  (text.foldl loadChar { cursor := 0, pending := none, inAddress := false, mem := [] }).mem

/-- The block as it is released from reset with an image loaded (R351 (1), (2)). -/
def State.boot (p : Params) (text : List Char) : State := State.resetWith p (loadImage text)

end Sys2Proof.Machine
end

