-- ==== Sys2Proof/Machine/Interface.lean ====
section
/-! DEFINITION. The interfaces of the block in one cycle (`00_scope.md` R7, D22): what the three memory ports carry, and the
outputs. They are functions of the current copy. The inputs `clk` and `rst` are `step` and `assertReset`; the decoder interface is
`decodeRecord`. -/

namespace Sys2Proof.Machine

/-- What the ports of R7 carry in one cycle. -/
structure Ports where
  /-- Fetch read port: the address, when Fetch acts (R129). -/
  fetchAddr : Option Word
  /-- Load read port: address and width, when a load fires (R182). -/
  load : Option (Word × Width)
  /-- Store write port: address, width and data, when a store commits (R298). -/
  store : Option (Word × Width × Word)
  halted : Bool
  exitValue : BitVec 8
  fatal : Bool
deriving DecidableEq, Repr

/-- The load read port (R7, R182): driven in a cycle in which the stages act and a load is selected. -/
def loadPort (s : State) : Option (Word × Width) :=
  if terminal s || s.flush then none
  else
    match select s with
    | none => none
    | some p =>
      if (entryAt s p).op.isLoad then some (effectiveAddress (entryAt s p), (entryAt s p).op.width) else none

/-- The store write port (R7, R298): driven in a cycle in which the stages act and a store retires. -/
def storePort (s : State) : Option (Word × Width × Word) :=
  if terminal s || s.flush then none
  else
    match commit s with
    | .ok (.retired .store e) => some (e.addr, e.op.width, e.value)
    | _ => none

/-- The ports in the cycle whose current copy is `s` (R7). -/
def ports (s : State) : Ports :=
  { fetchAddr := if fetchActs s then some s.pc else none
    load := loadPort s
    store := storePort s
    halted := s.halted
    exitValue := exitValue s
    fatal := s.fatal }

end Sys2Proof.Machine
end

