-- ==== Sys2Proof/Machine/Seq.lean ====
section
/-! DEFINITION. `Seq`, "the one-instruction-at-a-time interpretation" that R306 compares the block with: each instruction's
"Pseudocode (architectural effect)" of files 43 to 47, written from those rules and not from the stages. No stage uses it. -/

namespace Sys2Proof.Machine

/-- What `Seq` works on: the architectural state (R13, R306). -/
structure Arch where
  x : Bank Word
  pc : Word
  mem : Mem
deriving DecidableEq, Repr

/-- `x[r]`, with `x[0]` the constant 0 (R21). -/
def Arch.get (a : Arch) (r : Reg) : Word := if r = 0 then 0 else Bank.get a.x r

/-- `x[r] <- v`, nothing for register 0 (R21), and the next instruction at `t`. -/
def Arch.put (a : Arch) (r : Reg) (v : Word) (t : Word) : Arch :=
  { a with x := if r = 0 then a.x else Bank.put a.x r v, pc := t }

/-- No register and no memory byte written; the next instruction at `t`. -/
def Arch.goto (a : Arch) (t : Word) : Arch := { a with pc := t }

/-- A store, the next instruction at `p + 4`. -/
def Arch.store (a : Arch) (addr : Word) (n : Width) (v : Word) : Arch :=
  { a with mem := memWrite a.mem addr n v, pc := a.pc + 4 }

/-- The architectural effect of one instruction (the "Pseudocode" line of its rule). The sentinel writes nothing (R278). -/
def seqExec (i : Instr) (a : Arch) : Arch :=
  match i with
  | .halt => a
  | .lui rd imm => a.put rd imm (a.pc + 4)
  | .auipc rd imm => a.put rd (a.pc + imm) (a.pc + 4)
  | .jal rd imm => a.put rd (a.pc + 4) (a.pc + imm)
  | .jalr rd rs1 imm => a.put rd (a.pc + 4) ((a.get rs1 + imm) &&& 0xFFFFFFFE)
  | .beq rs1 rs2 imm => a.goto (if a.get rs1 = a.get rs2 then a.pc + imm else a.pc + 4)
  | .bne rs1 rs2 imm => a.goto (if a.get rs1 ≠ a.get rs2 then a.pc + imm else a.pc + 4)
  | .blt rs1 rs2 imm => a.goto (if (a.get rs1).slt (a.get rs2) then a.pc + imm else a.pc + 4)
  | .bge rs1 rs2 imm => a.goto (if (a.get rs2).sle (a.get rs1) then a.pc + imm else a.pc + 4)
  | .bltu rs1 rs2 imm => a.goto (if (a.get rs1).ult (a.get rs2) then a.pc + imm else a.pc + 4)
  | .bgeu rs1 rs2 imm => a.goto (if (a.get rs2).ule (a.get rs1) then a.pc + imm else a.pc + 4)
  | .lb rd rs1 imm => a.put rd (((memRead a.mem (a.get rs1 + imm) .byte).setWidth 8).signExtend 32) (a.pc + 4)
  | .lh rd rs1 imm => a.put rd (((memRead a.mem (a.get rs1 + imm) .half).setWidth 16).signExtend 32) (a.pc + 4)
  | .lw rd rs1 imm => a.put rd (memRead a.mem (a.get rs1 + imm) .word) (a.pc + 4)
  | .lbu rd rs1 imm => a.put rd (memRead a.mem (a.get rs1 + imm) .byte) (a.pc + 4)
  | .lhu rd rs1 imm => a.put rd (memRead a.mem (a.get rs1 + imm) .half) (a.pc + 4)
  | .sb rs1 rs2 imm => a.store (a.get rs1 + imm) .byte (a.get rs2)
  | .sh rs1 rs2 imm => a.store (a.get rs1 + imm) .half (a.get rs2)
  | .sw rs1 rs2 imm => a.store (a.get rs1 + imm) .word (a.get rs2)
  | .addi rd rs1 imm => a.put rd (a.get rs1 + imm) (a.pc + 4)
  | .slti rd rs1 imm => a.put rd (if (a.get rs1).slt imm then 1 else 0) (a.pc + 4)
  | .sltiu rd rs1 imm => a.put rd (if (a.get rs1).ult imm then 1 else 0) (a.pc + 4)
  | .xori rd rs1 imm => a.put rd (a.get rs1 ^^^ imm) (a.pc + 4)
  | .ori rd rs1 imm => a.put rd (a.get rs1 ||| imm) (a.pc + 4)
  | .andi rd rs1 imm => a.put rd (a.get rs1 &&& imm) (a.pc + 4)
  | .slli rd rs1 shamt => a.put rd (a.get rs1 <<< shamt.toNat) (a.pc + 4)
  | .srli rd rs1 shamt => a.put rd (a.get rs1 >>> shamt.toNat) (a.pc + 4)
  | .srai rd rs1 shamt => a.put rd ((a.get rs1).sshiftRight shamt.toNat) (a.pc + 4)
  | .add rd rs1 rs2 => a.put rd (a.get rs1 + a.get rs2) (a.pc + 4)
  | .sub rd rs1 rs2 => a.put rd (a.get rs1 - a.get rs2) (a.pc + 4)
  | .sll rd rs1 rs2 => a.put rd (a.get rs1 <<< ((a.get rs2).toNat % 32)) (a.pc + 4)
  | .slt rd rs1 rs2 => a.put rd (if (a.get rs1).slt (a.get rs2) then 1 else 0) (a.pc + 4)
  | .sltu rd rs1 rs2 => a.put rd (if (a.get rs1).ult (a.get rs2) then 1 else 0) (a.pc + 4)
  | .xor rd rs1 rs2 => a.put rd (a.get rs1 ^^^ a.get rs2) (a.pc + 4)
  | .srl rd rs1 rs2 => a.put rd (a.get rs1 >>> ((a.get rs2).toNat % 32)) (a.pc + 4)
  | .sra rd rs1 rs2 => a.put rd ((a.get rs1).sshiftRight ((a.get rs2).toNat % 32)) (a.pc + 4)
  | .or rd rs1 rs2 => a.put rd (a.get rs1 ||| a.get rs2) (a.pc + 4)
  | .and rd rs1 rs2 => a.put rd (a.get rs1 &&& a.get rs2) (a.pc + 4)

/-- What one step of `Seq` does (R306). -/
inductive SeqResult where
  /-- The word at the pc is an instruction other than the sentinel. -/
  | running (a : Arch)
  /-- The word is the sentinel: stop, halted. -/
  | halted (a : Arch)
  /-- The word is unrecognised: stop, fatal. -/
  | fatal (a : Arch)
deriving DecidableEq, Repr

/-- One step of `Seq`: "`w <- MemRead(pc, 4)`; if `w = HALT_WORD` stop (halt); if `Decode(w).op` = INVALID stop (fatal); otherwise"
the instruction's effect (R306). -/
def seqStep (a : Arch) : SeqResult :=
  match decodeWord (memRead a.mem a.pc .word) with
  | .error _ => .fatal a
  | .ok .halt => .halted a
  | .ok i => .running (seqExec i a)

/-- `n` steps of `Seq`, fewer if it stops. -/
def seqRun : Nat → Arch → SeqResult
  | 0, a => .running a
  | n + 1, a =>
    match seqStep a with
    | .running b => seqRun n b
    | .halted b => .halted b
    | .fatal b => .fatal b

/-- The architectural state of the block (R13, R305): the registers and memory as committed; `pc` is the fetch pointer. -/
def archOf (s : State) : Arch := { x := s.regs, pc := s.pc, mem := s.mem }

end Sys2Proof.Machine
end

