-- ==== Sys2Proof/Safety.lean ====
section
/-! DEFINITION. The terms in which claims about the block are stated: the three kinds of state of R12, the consistency of the
scheduler (R41, R42), the empty pipeline, and running from a state. -/

namespace Sys2Proof.Safety

open Sys2Proof.Machine

/-- Running: neither halted nor fatal (R12). -/
def Running (s : State) : Prop := s.halted = false ∧ s.fatal = false

/-- The stages act in this cycle: the state is running and not in its flush cycle (R126, R127). -/
def Active (s : State) : Prop := Running s ∧ s.flush = false

/-- The whole 32-bit address space is memory: the default of `MEM_BYTES` (R6, R60). -/
def FullMemory (s : State) : Prop := s.params.memBytes = 4294967296

/-- Nothing is in flight and Fetch acts: no ROB entry, no busy RS, LSB or Alias Table entry, no flag set. The state after reset, and
the state after a flush cycle, are such states, whatever the registers, the pc and memory hold. -/
structure Drained (s : State) : Prop where
  active : Active s
  block : s.block = false
  draining : s.draining = false
  size : s.robSize = 0
  stations : ∀ p : Pick, (entryAt s p).busy = false
  aliases : ∀ r : Reg, (Bank.get s.rat r).busy = false

/-- The youngest ROB entry: the slot before the tail (R30). Meaningful while the ROB is not empty. -/
def youngest (s : State) : RobId := tail s - 1

/-- ROB entry `k` is in flight and promises register `r` (R42 (c)). -/
def Promises (s : State) (r : Reg) (k : RobId) : Prop :=
  occupied s k = true ∧ (robAt s k).op.writesReg = true ∧ (robAt s k).rd = r

/-- ROB entry `k` is the youngest in flight that promises register `r` (R42 (c)). -/
def YoungestPromise (s : State) (r : Reg) (k : RobId) : Prop :=
  Promises s r k ∧ ∀ j : RobId, Promises s r j → age s j ≤ age s k

/-- The scheduler is consistent: R41 (a) and R42 (a) to (e), with the three facts about jump-registers and sentinels in flight that
R124, R277 and R301 rest on. -/
structure Consistent (s : State) : Prop where
  /-- R41 (a): at most 32 live ROB entries. -/
  size_le : s.robSize.toNat ≤ 32
  /-- R26: "`rat[0].busy` is always 0". -/
  alias_zero : (Bank.get s.rat 0).busy = false
  /-- R42 (a): a busy entry has an occupied, busy ROB entry of the same operation, and stands where the operation is routed. -/
  entry_live : ∀ p : Pick, (entryAt s p).busy = true →
    occupied s (entryAt s p).dest = true ∧ (robAt s (entryAt s p).dest).busy = true ∧
      (robAt s (entryAt s p).dest).op = (entryAt s p).op ∧ p.station = routeOf (entryAt s p).op
  /-- R42 (a): two busy entries have different ROB ids. -/
  entry_unique : ∀ p q : Pick, (entryAt s p).busy = true → (entryAt s q).busy = true →
    (entryAt s p).dest = (entryAt s q).dest → p = q
  /-- R42 (a): an occupied busy ROB entry has a busy RS or LSB entry. -/
  rob_live : ∀ k : RobId, occupied s k = true → (robAt s k).busy = true →
    ∃ p : Pick, (entryAt s p).busy = true ∧ (entryAt s p).dest = k
  /-- R42 (b): a pending tag names an older, busy ROB entry that writes a register other than 0. -/
  tag_live : ∀ (p : Pick) (q : RobId), (entryAt s p).busy = true →
    ((entryAt s p).qj = some q ∨ (entryAt s p).qk = some q) →
      older s q (entryAt s p).dest = true ∧ (robAt s q).busy = true ∧ (robAt s q).op.writesReg = true ∧ (robAt s q).rd ≠ 0
  /-- R42 (c): an alias names exactly the youngest in-flight producer. -/
  alias_youngest : ∀ r : Reg, r ≠ 0 → ∀ k : RobId,
    ((Bank.get s.rat r).busy = true ∧ (Bank.get s.rat r).id = k) ↔ YoungestPromise s r k
  /-- R42 (c): a register is resolved exactly when nothing in flight promises it. -/
  alias_resolved : ∀ r : Reg, r ≠ 0 → ((Bank.get s.rat r).busy = false ↔ ∀ k : RobId, ¬ Promises s r k)
  /-- R29, R141: the `halt` mark is that of the sentinel's entry. -/
  halt_mark : ∀ k : RobId, occupied s k = true → ((robAt s k).halt = true ↔ (robAt s k).op = .halt)
  /-- R42 (d): `block` = 1 implies the youngest occupied entry is a JALR. -/
  block_jalr : s.block = true → s.robSize ≠ 0 ∧ (robAt s (youngest s)).op = .jalr
  /-- R42 (d): `draining` = 1 implies the youngest occupied entry is the sentinel. -/
  draining_halt : s.draining = true → s.robSize ≠ 0 ∧ (robAt s (youngest s)).halt = true
  /-- R34, R277: "Nothing younger than a JALR is ever in flight", and `block` is set while it is. -/
  jalr_youngest : ∀ k : RobId, occupied s k = true → (robAt s k).op = .jalr → s.block = true ∧ k = youngest s
  /-- R35, R301: nothing younger than a sentinel is in flight, and `draining` is set while it is. -/
  halt_youngest : ∀ k : RobId, occupied s k = true → (robAt s k).halt = true → s.draining = true ∧ k = youngest s
  /-- R42 (e): in the flush cycle nothing is in flight and Fetch is not stopped. -/
  flush_empty : s.flush = true → s.robSize = 0 ∧ s.block = false ∧ s.draining = false

/-! ### What happens in a cycle -/

/-- `t` comes after `s` by a step of the block, or by the meaning of some instruction, whatever word stands at the pc. -/
def Moves (s t : State) : Prop := step s = .next t ∨ ∃ i : Instr, exec i s = .next t

/-- The ROB head (R30). -/
def head (s : State) : RobEntry := robAt s s.robHead

/-- Commit's condition: the ROB is not empty and its head is ready (R290). -/
def HeadReady (s : State) : Prop := s.robSize ≠ 0 ∧ (head s).busy = false

/-- The head is a branch, and no sentinel. -/
def HeadIsBranch (s : State) : Prop := (head s).halt = false ∧ (head s).op.isBranch = true

/-- Commit detects a misprediction in this cycle: `e.value[0] != e.pred` for the ready head branch (R294). -/
def Mispredicts (s : State) : Prop := HeadReady s ∧ HeadIsBranch s ∧ (head s).value.getLsbD 0 ≠ (head s).pred

/-- The CDB pair of the cycle (R179). -/
def cdbOf (s : State) : Option Cdb :=
  match execute s with
  | .ok ex => ex.cdb
  | .error _ => none

/-- Slot `i` is the free one of the lowest index (R145). -/
def FirstFree (v : Bank StationEntry) (i : Slot) : Prop :=
  (Bank.get v i).busy = false ∧ ∀ j : Slot, j.toNat < i.toNat → (Bank.get v j).busy = true

/-- An instruction routed to `st` issues in this cycle: Fetch acts (R128), nothing is full (R143), no flush discards it (R124). -/
def CanIssue (s : State) (st : Station) : Prop :=
  fetchActs s = true ∧ s.robSize ≠ 32 ∧ (∃ i : Slot, (Bank.get (stationBank s st) i).busy = false) ∧ ¬ Mispredicts s

/-- The step issues the fetched word `w`, unless a misprediction discards the issue: Fetch acts (R128), neither the ROB nor the target
structure of `w` is full (R143). -/
def IssuesWord (s : State) (w : Word) : Prop :=
  fetchActs s = true ∧ fetchWord s = .ok w ∧ s.robSize ≠ 32 ∧
    ∃ i : Slot, (Bank.get (stationBank s (routeOf (decodeRecord w).op)) i).busy = false

/-- The step's issue claims register `r` (R150). -/
def Claims (s : State) (r : Reg) : Prop :=
  r ≠ 0 ∧ ∃ w : Word, IssuesWord s w ∧ (decodeRecord w).op.writesReg = true ∧ (decodeRecord w).rd = r

/-- The Alias Table after a step whose commit clears the alias of `rd` if it still names the head (R300): a claim of the step's issue wins
(R124), and every other alias is as it was. -/
def AliasesAfterCommit (s t : State) (rd : Reg) : Prop :=
  (∀ r : Reg, Claims s r → Bank.get t.rat r = { busy := true, id := tail s }) ∧
  (∀ r : Reg, ¬ Claims s r → r = rd ∧ r ≠ 0 ∧ (Bank.get s.rat r).id = s.robHead →
    Bank.get t.rat r = { Bank.get s.rat r with busy := false }) ∧
  (∀ r : Reg, ¬ Claims s r → ¬ (r = rd ∧ r ≠ 0 ∧ (Bank.get s.rat r).id = s.robHead) → Bank.get t.rat r = Bank.get s.rat r)

/-- "`nxt.rob.size = cur.rob.size + issued - committed`" for a step (R124). -/
def SizeAfter (s t : State) (committed : BitVec 6) : Prop :=
  ((∃ w, IssuesWord s w) → t.robSize = s.robSize + 1 - committed) ∧ ((¬ ∃ w, IssuesWord s w) → t.robSize = s.robSize - committed)

/-- Alias `r`, which the issue of the cycle does not claim: it is as it was, or the retiring head has cleared its own (R300). -/
def KeptOrCleared (s t : State) (r : Reg) : Prop :=
  Bank.get t.rat r = Bank.get s.rat r ∨
    (HeadReady s ∧ r = (head s).rd ∧ r ≠ 0 ∧ (Bank.get s.rat r).id = s.robHead ∧
      Bank.get t.rat r = { Bank.get s.rat r with busy := false })

/-- `rob.size` after a cycle that issues: both the issue and the retirement of a ready head count (R124, R144, R291). -/
def SizeAfterIssue (s t : State) : Prop :=
  (¬ HeadReady s → t.robSize = s.robSize + 1) ∧
  (HeadReady s → (head s).halt = true ∨ (head s).op ≠ .invalid → t.robSize = s.robSize)

/-- The ready head is a JALR: the one commit that redirects the pc, beside a flush (R293). -/
def JumpRegisterRetires (s : State) : Prop := HeadReady s ∧ (head s).halt = false ∧ (head s).op = .jalr

/-- `Resolve(s)` as a relation: the cases of R146 to R148. Of the value of a pending operand nothing is said. -/
def Resolves (s : State) (cdb : Option Cdb) (r : Reg) (v : Word) (q : Option RobId) : Prop :=
  if r = 0 then v = 0 ∧ q = none
  else if (Bank.get s.rat r).busy = false then v = Bank.get s.regs r ∧ q = none
  else if (robAt s (Bank.get s.rat r).id).busy = false then v = (robAt s (Bank.get s.rat r).id).value ∧ q = none
  else (cdb = some ⟨(Bank.get s.rat r).id, v⟩ ∧ q = none) ∨
    ((∀ c, cdb = some c → c.id ≠ (Bank.get s.rat r).id) ∧ q = some (Bank.get s.rat r).id)

/-- An operand slot holds what a column of the table of R149 asks for. -/
def Holds (s : State) (cdb : Option Cdb) : Source → Word → Option RobId → Prop
  | .known x, v, q => v = x ∧ q = none
  | .reg r, v, q => Resolves s cdb r v q

/-- The operand columns `(vj, qj)` and `(vk, qk)` of the table of R149, by operation; `p` is the address of the instruction. -/
def operandColumns (r : Record) (p : Word) : Source × Source :=
  match r.op with
  | .lui | .invalid => (.known 0, .known 0)
  | .auipc | .jal => (.known p, .known 0)
  | .jalr => (.reg r.rs1, .known p)
  | .beq | .bne | .blt | .bge | .bltu | .bgeu => (.reg r.rs1, .reg r.rs2)
  | .lb | .lh | .lw | .lbu | .lhu => (.reg r.rs1, .known 0)
  | .sb | .sh | .sw => (.reg r.rs1, .reg r.rs2)
  | .addi | .slti | .sltiu | .xori | .ori | .andi | .slli | .srli | .srai => (.reg r.rs1, .known 0)
  | .add | .sub | .sll | .slt | .sltu | .xor | .srl | .sra | .or | .and => (.reg r.rs1, .reg r.rs2)
  | .halt => (.known 0, .known 0)

/-! ### The three cycles of an instruction that is alone in the pipeline

R367: "it fires in cycle t+1 and commits in cycle t+2". `s` is the state in which the instruction is fetched; `t1`, `t2`, `t3` are the
states after its issue, its fire and its commit. -/

/-- Cycle t is the meaning of `i`; cycles t+1 and t+2 are steps of the block. -/
def ThreeCycles (i : Instr) (s t1 t2 t3 : State) : Prop :=
  exec i s = .next t1 ∧ step t1 = .next t2 ∧ step t2 = .next t3

/-- Nothing but what the instruction's own rule names has changed: no register but `rd`, no memory byte, not the predictor, no
terminal flag by the time it commits, and not the open parameters, a field of the model (log entry 3). -/
def WritesRegister (i : Instr) (s : State) (rd : Reg) (v : Word) (nextPc : Word) : Prop :=
  ∃ t1 t2 t3, ThreeCycles i s t1 t2 t3 ∧ t1.pc = nextPc ∧
    (∀ r : Reg, readReg t3 r = if r = rd ∧ r ≠ 0 then v else readReg s r) ∧
    (∀ r : Reg, readReg t2 r = readReg s r) ∧
    (∀ a : Word, memByte t3.mem a = memByte s.mem a) ∧
    t3.predCtr = s.predCtr ∧ t3.flush = false ∧ t3.halted = false ∧ t2.fatal = false ∧ t3.params = s.params

/-- A store: the `n` bytes from `base` on hold the low bytes of `v` once it has committed, and no earlier; every other byte, every
register and the predictor are unchanged. -/
def StoresBytes (i : Instr) (s : State) (base : Word) (n : Width) (v : Word) : Prop :=
  ∃ t1 t2 t3, ThreeCycles i s t1 t2 t3 ∧ t1.pc = s.pc + 4 ∧
    (∀ a : Word, inAccess base n a = false → memByte t3.mem a = memByte s.mem a) ∧
    (∀ k : Nat, k < n.bytes → memByte t3.mem (base + BitVec.ofNat 32 k) = v.extractLsb' (8 * k) 8) ∧
    (∀ a : Word, memByte t2.mem a = memByte s.mem a) ∧
    (∀ r : Reg, readReg t3 r = readReg s r) ∧
    t3.predCtr = s.predCtr ∧ t3.flush = false ∧ t3.halted = false ∧ t2.fatal = false ∧ t3.params = s.params

/-- A branch with condition `c` and offset `imm`: fetch goes on along the predicted path; if the prediction was wrong the commit puts
the pc on the other path and empties the pipeline. No register and no memory byte changes. -/
def Branches (i : Instr) (s : State) (c : Prop) (imm : Word) : Prop :=
  ∃ t1 t2 t3, ThreeCycles i s t1 t2 t3 ∧
    t1.pc = (if s.predCtr.toNat < 2 then s.pc + 4 else s.pc + imm) ∧
    (c ∧ 2 ≤ s.predCtr.toNat → t3.flush = false ∧ t3.predCtr.toNat = min (s.predCtr.toNat + 1) 3) ∧
    (¬ c ∧ s.predCtr.toNat < 2 → t3.flush = false ∧ t3.predCtr.toNat = s.predCtr.toNat - 1) ∧
    (c ∧ s.predCtr.toNat < 2 →
      t3.pc = s.pc + imm ∧ t3.flush = true ∧ t3.robSize = 0 ∧ t3.predCtr.toNat = s.predCtr.toNat - 1) ∧
    (¬ c ∧ 2 ≤ s.predCtr.toNat →
      t3.pc = s.pc + 4 ∧ t3.flush = true ∧ t3.robSize = 0 ∧ t3.predCtr.toNat = s.predCtr.toNat - 1) ∧
    (∀ r : Reg, readReg t3 r = readReg s r) ∧ (∀ a : Word, memByte t3.mem a = memByte s.mem a) ∧
    t3.halted = false ∧ t2.fatal = false ∧ t3.params = s.params

/-! ### Sequential execution (R306) -/

/-- `n` cycles of the block: the state after them, if none is refused. -/
def after : Nat → State → Option State
  | 0, s => some s
  | n + 1, s =>
    match step s with
    | .next t => after n t
    | .fault _ => none
    | .refused _ => none

/-- The bytes `Seq` writes when it executes the instruction at `a`: address and width of a store. -/
def storeOf (a : Arch) : Option (Word × Width) :=
  match decodeWord (memRead a.mem a.pc .word) with
  | .ok (.sb rs1 _ imm) => some (a.get rs1 + imm, .byte)
  | .ok (.sh rs1 _ imm) => some (a.get rs1 + imm, .half)
  | .ok (.sw rs1 _ imm) => some (a.get rs1 + imm, .word)
  | _ => none

/-- The program "does not store into its own instruction stream" (R306, R362): no byte that `Seq` fetches was written by one of its
earlier stores. -/
def NoSelfModification (a : Arch) : Prop :=
  ∀ j k b c base n, j < k → seqRun j a = .running b → seqRun k a = .running c → storeOf b = some (base, n) →
    ∀ o : Nat, o < 4 → inAccess base n (c.pc + BitVec.ofNat 32 o) = false

/-- The state in which a run starts (R306, R351): reset, with an image and any stream of choices. -/
def startOf (p : Params) (m : Mem) (choices : List Nat) : State := { State.resetWith p m with choices := choices }

end Sys2Proof.Safety
end

