-- ==== Sys2Proof/Certificates/Slice0/Obligations.lean ====
section
/-! DEFINITION. The statements for the provers. Each docstring names the rule of `spec/` that the statement formalises. -/

open Sys2Proof Sys2Proof.Machine Sys2Proof.Safety

/-! ### Encoding -/

/-- Decode and encode agree on every well-formed instruction: no bit of an operand is dropped (R94, R95, R97, R99, R100). -/
def Obligations.DecodeOfEncode : Prop :=
  ∀ i : Instr, i.wf = true → decodeWord (encode i) = .ok i

/-- Every word that is an instruction is the encoding of that instruction, which is well formed: a word has one meaning (R97). -/
def Obligations.EncodeOfDecode : Prop :=
  ∀ (w : Word) (i : Instr), decodeWord w = .ok i → i.wf = true ∧ encode i = w

/-- The rows 1 to 37 of R97: `match`, `mask` and the operation they select. -/
def opcodeRows : List (Word × Word × Op) :=
  [(0x00000037, 0x0000007F, .lui), (0x00000017, 0x0000007F, .auipc), (0x0000006F, 0x0000007F, .jal),
    (0x00000067, 0x0000707F, .jalr), (0x00000063, 0x0000707F, .beq), (0x00001063, 0x0000707F, .bne),
    (0x00004063, 0x0000707F, .blt), (0x00005063, 0x0000707F, .bge), (0x00006063, 0x0000707F, .bltu),
    (0x00007063, 0x0000707F, .bgeu), (0x00000003, 0x0000707F, .lb), (0x00001003, 0x0000707F, .lh),
    (0x00002003, 0x0000707F, .lw), (0x00004003, 0x0000707F, .lbu), (0x00005003, 0x0000707F, .lhu),
    (0x00000023, 0x0000707F, .sb), (0x00001023, 0x0000707F, .sh), (0x00002023, 0x0000707F, .sw)] ++
  [(0x00000013, 0x0000707F, .addi), (0x00002013, 0x0000707F, .slti), (0x00003013, 0x0000707F, .sltiu),
    (0x00004013, 0x0000707F, .xori), (0x00006013, 0x0000707F, .ori), (0x00007013, 0x0000707F, .andi),
    (0x00001013, 0xFE00707F, .slli), (0x00005013, 0xFE00707F, .srli), (0x40005013, 0xFE00707F, .srai),
    (0x00000033, 0xFE00707F, .add), (0x40000033, 0xFE00707F, .sub), (0x00001033, 0xFE00707F, .sll),
    (0x00002033, 0xFE00707F, .slt), (0x00003033, 0xFE00707F, .sltu), (0x00004033, 0xFE00707F, .xor),
    (0x00005033, 0xFE00707F, .srl), (0x40005033, 0xFE00707F, .sra), (0x00006033, 0xFE00707F, .or),
    (0x00007033, 0xFE00707F, .and)]

/-- R97: "the word w selects the row iff `w & mask = match`", for every word but the sentinel (R100); a word that selects no row is
INVALID (R101). -/
def Obligations.OpcodeTableSelectsOperation : Prop :=
  (∀ w : Word, w ≠ haltWord → ∀ row ∈ opcodeRows, (w &&& row.2.1 = row.1 ↔ (decodeRecord w).op = row.2.2)) ∧
  (∀ w : Word, w ≠ haltWord → (∀ row ∈ opcodeRows, w &&& row.2.1 ≠ row.1) → decodeRecord w = invalidRecord)

/-- R99: "Only this exact 32-bit pattern is the sentinel"; it has the fields of `addi x10, x0, 255`, and the two words the rule names
beside it are ordinary instructions. -/
def Obligations.OnlyOneWordIsSentinel : Prop :=
  (∀ w : Word, decodeWord w = .ok .halt ↔ w = 0x0FF00513) ∧ (∀ w : Word, decodeWord w ≠ .ok (.addi 10 0 255)) ∧
  encode .halt = packI 255 0 0 10 0x13 ∧ decodeWord (encode (.addi 11 0 255)) = .ok (.addi 11 0 255) ∧
  decodeWord (encode (.ori 10 0 255)) = .ok (.ori 10 0 255)

/-- R102: the unrecognised words, exhaustively, with the words it names. -/
def Obligations.UnrecognisedWordsExhaustively : Prop :=
  (∀ w : Word, (decodeRecord w).op = .invalid ↔
    (w.extractLsb' 0 7 ∉ [0x37#7, 0x17#7, 0x6F#7, 0x67#7, 0x63#7, 0x03#7, 0x23#7, 0x13#7, 0x33#7]) ∨
    (w.extractLsb' 0 7 = 0x67#7 ∧ w.extractLsb' 12 3 ≠ 0#3) ∨
    (w.extractLsb' 0 7 = 0x63#7 ∧ w.extractLsb' 12 3 ∈ [2#3, 3#3]) ∨
    (w.extractLsb' 0 7 = 0x03#7 ∧ w.extractLsb' 12 3 ∈ [3#3, 6#3, 7#3]) ∨
    (w.extractLsb' 0 7 = 0x23#7 ∧ w.extractLsb' 12 3 ∈ [3#3, 4#3, 5#3, 6#3, 7#3]) ∨
    (w.extractLsb' 0 7 = 0x13#7 ∧ ((w.extractLsb' 12 3 = 1#3 ∧ w.extractLsb' 25 7 ≠ 0#7) ∨
      (w.extractLsb' 12 3 = 5#3 ∧ w.extractLsb' 25 7 ∉ [0#7, 0x20#7]))) ∨
    (w.extractLsb' 0 7 = 0x33#7 ∧ (w.extractLsb' 12 3, w.extractLsb' 25 7) ∉
      [(0#3, 0#7), (0#3, 0x20#7), (1#3, 0#7), (2#3, 0#7), (3#3, 0#7), (4#3, 0#7), (5#3, 0#7), (5#3, 0x20#7), (6#3, 0#7),
        (7#3, 0#7)])) ∧
  (∀ w : Word, w.extractLsb' 0 2 ≠ 3#2 → (decodeRecord w).op = .invalid) ∧
  (∀ w : Word, w.extractLsb' 0 7 ∈ [0x0F#7, 0x73#7, 0x2F#7, 0x07#7, 0x27#7, 0x43#7, 0x47#7, 0x4B#7, 0x4F#7, 0x53#7, 0x3B#7,
    0x1B#7] → (decodeRecord w).op = .invalid) ∧
  (∀ w : Word, w.extractLsb' 0 7 = 0x33#7 → w.extractLsb' 25 7 = 1#7 → (decodeRecord w).op = .invalid) ∧
  (decodeRecord 0).op = .invalid ∧ (decodeRecord 0xFFFFFFFF).op = .invalid

/-- Some words of R105 and of the examples of the instruction rules, decoded: one of each family. -/
def Obligations.SampleWordsDecode : Prop :=
  decodeWord 0x123452B7 = .ok (.lui 5 0x12345000) ∧ decodeWord 0x00C000EF = .ok (.jal 1 12) ∧
  decodeWord 0x004280E7 = .ok (.jalr 1 5 4) ∧ decodeWord 0xFE029CE3 = .ok (.bne 5 0 0xFFFFFFF8) ∧
  decodeWord 0xFFC2A303 = .ok (.lw 6 5 0xFFFFFFFC) ∧ decodeWord 0x00729123 = .ok (.sh 5 7 2) ∧
  decodeWord 0x00500513 = .ok (.addi 10 0 5) ∧ decodeWord 0x4042D313 = .ok (.srai 6 5 4) ∧
  decodeWord 0x406283B3 = .ok (.sub 7 5 6) ∧ decodeWord 0x0FF00513 = .ok .halt

/-! ### The step -/

/-- When the four bytes at the pc decode to `i` and Fetch acts, the step is the meaning of `i` and nothing is added around it (R129,
R140): the pc is moved by the meaning itself. The reading of a meaning as a whole cycle is the model's (log entry 1). -/
def Obligations.StepRunsDecodedInstruction : Prop :=
  ∀ (s : State) (i : Instr), fetchActs s = true → inMemory s.params s.pc .word = true →
    decodeBytes [memByte s.mem s.pc, memByte s.mem (s.pc + 1), memByte s.mem (s.pc + 2), memByte s.mem (s.pc + 3)] = .ok (i, []) →
    step s = exec i s

/-- The other cycles: an unrecognised word is issued as INVALID (R156), and a cycle in which Fetch does not act hands nothing over
(R128). What the issue of INVALID writes is `UnrecognisedWordIssue`. -/
def Obligations.StepWithoutInstruction : Prop :=
  (∀ (s : State) (w : Word), fetchActs s = true → fetchWord s = .ok w → (decodeRecord w).op = .invalid →
    step s = activeCycle s (some (invalidPlan s.pc))) ∧
  (∀ s : State, Active s → (s.block = true ∨ s.draining = true) → step s = activeCycle s none)

/-- R126: "When `cur.halted` = 1 or `cur.fatal` = 1 the cycle changes nothing", and no memory port is driven. -/
def Obligations.TerminalStateIsFrozen : Prop :=
  ∀ s : State, (s.halted = true ∨ s.fatal = true) → step s = .next s ∧ (∀ i : Instr, exec i s = .next s) ∧
    (ports s).fetchAddr = none ∧ (ports s).load = none ∧ (ports s).store = none

/-- R127: in the flush cycle no stage acts, no memory port is driven, the flag is cleared, and all other state holds; in a consistent
state nothing is in flight then, and Fetch acts in the cycle after it. -/
def Obligations.FlushCycleOnlyClearsFlag : Prop :=
  ∀ s : State, Running s → s.flush = true → step s = .next { s with flush := false } ∧
    (∀ i : Instr, exec i s = .next { s with flush := false }) ∧
    (ports s).fetchAddr = none ∧ (ports s).load = none ∧ (ports s).store = none ∧
    (Consistent s → s.robSize = 0 ∧ (∀ q : Pick, (entryAt s q).busy = false) ∧ fetchActs { s with flush := false } = true)

/-- With the default `MEM_BYTES` no step and no meaning is ever refused: "every rule of this spec is total" (R335), in every state
and not only in the reachable ones. -/
def Obligations.NothingRefusedWithFullMemory : Prop :=
  ∀ s : State, FullMemory s → (∃ t, step s = .next t) ∧ ∀ i : Instr, ∃ t, exec i s = .next t

/-- R60, U3: an access any of whose bytes lies at or above `MEM_BYTES` is refused: the fetch, the fire of a load, the commit of a
store, in every cycle in which the stages act. That the whole cycle is refused, and the first of the three accesses in this order named,
is the model's choice (log entry 3). -/
def Obligations.AccessBeyondMemoryRefused : Prop :=
  (∀ s : State, fetchActs s = true → inMemory s.params s.pc .word = false → step s = .refused (.beyondMemory .fetch s.pc)) ∧
  (∀ (s : State) (p : Pick), Active s → select s = some p → (entryAt s p).op.isLoad = true →
    inMemory s.params (effectiveAddress (entryAt s p)) (entryAt s p).op.width = false →
    ∃ r, step s = .refused r ∧
      ((fetchActs s = false ∨ inMemory s.params s.pc .word = true) → r = .beyondMemory .load (effectiveAddress (entryAt s p)))) ∧
  (∀ s : State, Active s → HeadReady s → (head s).halt = false → (head s).op.isStore = true →
    inMemory s.params (head s).addr (head s).op.width = false →
    ∃ r, step s = .refused r ∧
      ((fetchActs s = false ∨ inMemory s.params s.pc .word = true) →
        (∀ p : Pick, select s = some p → (entryAt s p).op.isLoad = true →
          inMemory s.params (effectiveAddress (entryAt s p)) (entryAt s p).op.width = true) →
        r = .beyondMemory .store (head s).addr))

/-! ### Reset -/

/-- R43: the values the spec gives for reset, for every block and image; the fields it calls unspecified are not mentioned. -/
def Obligations.ResetValues : Prop :=
  (∀ (p : Params) (m : Mem), (∀ r : Reg, readReg (State.resetWith p m) r = 0) ∧ (State.resetWith p m).pc = p.resetPc ∧
    (∀ r : Reg, (Bank.get (State.resetWith p m).rat r).busy = false) ∧
    (∀ q : Pick, (entryAt (State.resetWith p m) q).busy = false) ∧
    (State.resetWith p m).robHead = 0 ∧ (State.resetWith p m).robSize = 0 ∧ (State.resetWith p m).predCtr = p.predInit ∧
    (State.resetWith p m).flush = false ∧ (State.resetWith p m).block = false ∧ (State.resetWith p m).drainBit = false ∧
    (State.resetWith p m).halted = false ∧ (State.resetWith p m).fatal = false ∧ (State.resetWith p m).mem = m) ∧
  State.reset.pc = 0 ∧ State.reset.predCtr = 0 ∧ (∀ a : Word, memByte State.reset.mem a = 0)

/-- R350: with `rst` asserted the next state is the reset state, in any state; "Reset does not change memory". -/
def Obligations.ResetInputRestoresState : Prop :=
  ∀ s : State, (∀ a : Word, memByte (assertReset s).mem a = memByte s.mem a) ∧ (∀ r : Reg, readReg (assertReset s) r = 0) ∧
    (assertReset s).pc = s.params.resetPc ∧ (assertReset s).robHead = 0 ∧ (assertReset s).robSize = 0 ∧
    (∀ q : Pick, (entryAt (assertReset s) q).busy = false) ∧ (∀ r : Reg, (Bank.get (assertReset s).rat r).busy = false) ∧
    (assertReset s).predCtr = s.params.predInit ∧ (assertReset s).flush = false ∧ (assertReset s).block = false ∧
    (assertReset s).drainBit = false ∧ (assertReset s).halted = false ∧ (assertReset s).fatal = false

/-! ### Invariants -/

/-- The scheduler is consistent right after reset, whatever the parameters and the image. -/
def Obligations.ResetIsConsistent : Prop :=
  ∀ (p : Params) (m : Mem), Consistent (State.resetWith p m)

/-- Every step keeps the scheduler consistent: R41 (a), R42 (a) to (e), and the order facts about jump-registers and
sentinels. That the flag `draining` is over in a halted state is R35 and R42 (d) (log entry 7). -/
def Obligations.StepKeepsConsistent : Prop :=
  ∀ s t : State, Consistent s → step s = .next t → Consistent t

/-- Every step keeps memory in its canonical form. The form is the model's choice, no rule of the spec (log entry 12). -/
def Obligations.StepKeepsMemoryCanonical : Prop :=
  ∀ s t : State, s.mem.wf = true → step s = .next t → t.mem.wf = true

/-- R21: "register 0 hard-wired to zero on every write": the stored entry 0 stays as it is in every step and every meaning, and reads
as zero; as a source it is the literal 0 whatever the Alias Table holds, and its alias is never set. -/
def Obligations.RegisterZeroNeverWritten : Prop :=
  (∀ s t : State, Moves s t → Bank.get t.regs 0 = Bank.get s.regs 0 ∧ readReg t 0 = 0 ∧
    ((Bank.get s.rat 0).busy = false → Bank.get t.rat 0 = Bank.get s.rat 0)) ∧
  (∀ (s : State) (cdb : Option Cdb) (free : Word), resolve s cdb free 0 = { value := 0, tag := none })

/-- R316: from a counter below 2, with every branch in flight predicted not taken, a step leads to such a state again: the counter
never rises and `Predict` stays 0. -/
def Obligations.PredictorStaysUntaken : Prop :=
  ∀ s t : State, s.predCtr.toNat < 2 → (∀ k : RobId, occupied s k = true → (robAt s k).op.isBranch = true → (robAt s k).pred = false) →
    step s = .next t →
    t.predCtr.toNat ≤ s.predCtr.toNat ∧ predict t.predCtr = false ∧
      ∀ k : RobId, occupied t k = true → (robAt t k).op.isBranch = true → (robAt t k).pred = false

/-- The canonical form of memory, which is the model's choice and no rule of the spec (log entry 12), holds for every image the loader
makes, whatever its text. -/
def Obligations.LoadedImageIsCanonical : Prop :=
  ∀ text : List Char, (loadImage text).wf = true

/-! ### Commit -/

/-- R303: "`x[1..31]` and memory are written by rules R298 and R299 and by nothing else": a register or a byte that a step changes is
the one the retiring head writes, with the value it holds. -/
def Obligations.OnlyCommitWritesArchitecturalState : Prop :=
  ∀ s t : State, s.mem.wf = true → Moves s t →
    (∀ r : Reg, readReg t r ≠ readReg s r →
      HeadReady s ∧ (head s).op.writesReg = true ∧ (head s).op ≠ .halt ∧ (head s).rd = r ∧ readReg t r = (head s).value) ∧
    (∀ a : Word, memByte t.mem a ≠ memByte s.mem a →
      HeadReady s ∧ (head s).op.isStore = true ∧
        ∃ k : Nat, k < (head s).op.width.bytes ∧ a = (head s).addr + BitVec.ofNat 32 k ∧
          memByte t.mem a = (head s).value.extractLsb' (8 * k) 8)

/-- R304: a step, or a meaning, writes at most one register, or bytes of the one access of the head's
store, never both. -/
def Obligations.OneMutationPerCycle : Prop :=
  ∀ s t : State, s.mem.wf = true → Moves s t →
    (∀ r q : Reg, readReg t r ≠ readReg s r → readReg t q ≠ readReg s q → r = q) ∧
    (∀ a : Word, memByte t.mem a ≠ memByte s.mem a → inAccess (head s).addr (head s).op.width a = true) ∧
    ((∃ r : Reg, readReg t r ≠ readReg s r) → ∀ a : Word, memByte t.mem a = memByte s.mem a)

/-- R290: while the ROB is empty or its head busy, "commit makes no progress": no register, no byte, no counter, no halt, and the head
stays. -/
def Obligations.BusyHeadHoldsCommit : Prop :=
  ∀ s t : State, Active s → ¬ HeadReady s → step s = .next t →
    (∀ r : Reg, readReg t r = readReg s r) ∧ (∀ a : Word, memByte t.mem a = memByte s.mem a) ∧ t.predCtr = s.predCtr ∧
      t.robHead = s.robHead ∧ t.halted = false ∧ t.flush = false

/-- R291, R299, R300, R124: the commit of a ready register-writing head that is neither a JALR nor the sentinel: the register takes the
value (nothing for `rd` = 0), the window moves on, the alias of `rd` is cleared if it still names the head, and every other alias is left
alone; a claim of this cycle's issue wins. -/
def Obligations.RegisterCommit : Prop :=
  ∀ s : State, FullMemory s → Active s → HeadReady s → (head s).halt = false → (head s).op.writesReg = true →
    (head s).op ≠ .jalr → (head s).op ≠ .halt →
    ∃ t, step s = .next t ∧ (∀ r : Reg, readReg t r = if r = (head s).rd ∧ r ≠ 0 then (head s).value else readReg s r) ∧
      (∀ a : Word, memByte t.mem a = memByte s.mem a) ∧ t.robHead = s.robHead + 1 ∧ t.predCtr = s.predCtr ∧ t.halted = false ∧
      AliasesAfterCommit s t (head s).rd ∧ SizeAfter s t 1

/-- R298: the commit of a ready store writes exactly its bytes, from the address and the data of its ROB entry, and no register;
no alias is touched, but for the claim of this cycle's issue (R150); the window moves on (R291, R124). -/
def Obligations.StoreCommit : Prop :=
  ∀ s : State, FullMemory s → s.mem.wf = true → Active s → HeadReady s → (head s).halt = false → (head s).op.isStore = true →
    ∃ t, step s = .next t ∧
      (∀ a : Word, inAccess (head s).addr (head s).op.width a = false → memByte t.mem a = memByte s.mem a) ∧
      (∀ k : Nat, k < (head s).op.width.bytes →
        memByte t.mem ((head s).addr + BitVec.ofNat 32 k) = (head s).value.extractLsb' (8 * k) 8) ∧
      (∀ r : Reg, readReg t r = readReg s r) ∧ t.robHead = s.robHead + 1 ∧ t.predCtr = s.predCtr ∧
      AliasesAfterCommit s t 0 ∧ SizeAfter s t 1

/-- R293, R299, R300: the commit of a ready JALR: `block <- 0`, `pc <- e.addr`, the link register written, its own alias cleared and no
other, the window moved on (R291). Fetch does not act in that cycle, as in every reachable state (R124). -/
def Obligations.JumpRegisterCommit : Prop :=
  ∀ s : State, FullMemory s → Active s → s.block = true → HeadReady s → (head s).halt = false → (head s).op = .jalr →
    ∃ t, step s = .next t ∧ t.block = false ∧ t.pc = (head s).addr ∧
      (∀ r : Reg, readReg t r = if r = (head s).rd ∧ r ≠ 0 then (head s).value else readReg s r) ∧
      (∀ a : Word, memByte t.mem a = memByte s.mem a) ∧ t.robHead = s.robHead + 1 ∧ t.robSize = s.robSize - 1 ∧
      (∀ r : Reg, Bank.get t.rat r =
        if r = (head s).rd ∧ r ≠ 0 ∧ (Bank.get s.rat r).id = s.robHead then { Bank.get s.rat r with busy := false }
        else Bank.get s.rat r)

/-- R295, R296, R181: a mispredicted ready head: the pc corrected, everything in flight discarded, the flags cleared, `flush` raised, the
counter decremented; registers, memory, `halted` and `fatal` unchanged whatever fires or is issued in the same cycle. -/
def Obligations.MispredictionFlush : Prop :=
  ∀ s : State, FullMemory s → Active s → Mispredicts s →
    ∃ t, step s = .next t ∧ t.pc = (head s).addr ∧ t.robHead = 0 ∧ t.robSize = 0 ∧ (∀ q : Pick, (entryAt t q).busy = false) ∧
      (∀ r : Reg, (Bank.get t.rat r).busy = false) ∧ t.block = false ∧ t.drainBit = false ∧ t.flush = true ∧
      t.predCtr.toNat = s.predCtr.toNat - 1 ∧ t.regs = s.regs ∧ t.mem = s.mem ∧ t.halted = false ∧ t.fatal = false ∧
      t.rob = s.rob ∧ (∀ i : Instr, exec i s = .next t)

/-- R314: the table of the counter, and no other writer: a step changes the counter only at the commit of a branch. -/
def Obligations.PredictorCounterTable : Prop :=
  ∀ s t : State, Active s → step s = .next t →
    (HeadReady s → HeadIsBranch s →
      t.predCtr.toNat =
        if (head s).pred = true ∧ (head s).value.getLsbD 0 = true then min (s.predCtr.toNat + 1) 3 else s.predCtr.toNat - 1) ∧
    (¬ (HeadReady s ∧ HeadIsBranch s) → t.predCtr = s.predCtr)

/-- R301: when the sentinel is the ready head: `halted <- 1`, no register and no byte written, `exit_value` the low 8 bits of x10, and
in a consistent state it is the only instruction in flight, and `draining`, which is 1 "until the run halts" (R35, log entry 7), is over. -/
def Obligations.SentinelCommitHalts : Prop :=
  ∀ s : State, FullMemory s → Active s → HeadReady s → (head s).halt = true →
    ∃ t, step s = .next t ∧ t.halted = true ∧ (∀ r : Reg, readReg t r = readReg s r) ∧
      (∀ a : Word, memByte t.mem a = memByte s.mem a) ∧ exitValue t = (readReg s 10).extractLsb' 0 8 ∧ t.robHead = s.robHead + 1 ∧
      SizeAfter s t 1 ∧
      (Consistent s →
        s.robSize = 1 ∧ t.robSize = 0 ∧ t.fatal = false ∧ t.draining = false ∧ (Bank.get t.rat 10).busy = false)

/-- R12, R301, R186: the only events that end a run: `halted` rises exactly when a sentinel commits, `fatal` exactly when the selected
entry is INVALID and no misprediction commits. That a HALT operation without its mark retires as a sentinel too is the model's choice for
states that no run reaches (log entry 9). -/
def Obligations.OnlyTwoEventsEndRun : Prop :=
  ∀ s t : State, Active s → step s = .next t →
    (t.halted = true ↔ HeadReady s ∧ ((head s).halt = true ∨ (head s).op = .halt)) ∧
    (t.fatal = true ↔ (∃ p, select s = some p ∧ (entryAt s p).op = .invalid) ∧ ¬ Mispredicts s)

/-- R307: a commit retires the id at the head and moves the head to the next one; a flush restarts it at 0; nothing else moves it. A ready
INVALID head is left out of the second clause: it never commits (R302, log entry 8). -/
def Obligations.CommitIdsInOrder : Prop :=
  ∀ s t : State, step s = .next t →
    (t.robHead = s.robHead ∨ (HeadReady s ∧ t.robHead = s.robHead + 1) ∨ (Mispredicts s ∧ t.robHead = 0 ∧ t.flush = true)) ∧
    (Active s → HeadReady s → ¬ Mispredicts s → (head s).halt = true ∨ (head s).op ≠ .invalid → t.robHead = s.robHead + 1) ∧
    (Active s → Mispredicts s → t.robHead = 0) ∧
    (¬ (Active s ∧ HeadReady s) → t.robHead = s.robHead)

/-- R124, R155, R295: the stored bit of `draining` has two writers: the issue of the sentinel sets it, a flush clears it, and every other
step leaves it as it is, the commit of the sentinel among them. -/
def Obligations.DrainBitHasTwoWriters : Prop :=
  ∀ s t : State, step s = .next t →
    (Active s → Mispredicts s → t.drainBit = false) ∧
    (Active s → ¬ Mispredicts s → (t.drainBit = true ↔ s.drainBit = true ∨ IssuesWord s 0x0FF00513)) ∧
    (¬ Active s → t.drainBit = s.drainBit)

/-- R73: the store write port is the one way into memory. -/
def Obligations.StorePortIsOnlyMemoryWrite : Prop :=
  ∀ s t : State, step s = .next t →
    (storePort s = none → t.mem = s.mem) ∧ (∀ a n v, storePort s = some (a, n, v) → t.mem = memWrite s.mem a n v)

/-! ### Execute -/

/-- R171: a load in the LSB is eligible exactly when it is ready and every older store has resolved its address and shares no byte with
it. -/
def Obligations.LoadEligibleIffOlderStoresPass : Prop :=
  ∀ (s : State) (e : StationEntry), e.op.isLoad = true →
    (eligible s .lsb e = true ↔
      (e.busy = true ∧ e.qj = none ∧ e.qk = none) ∧
        ∀ k : RobId, older s k e.dest = true → (robAt s k).op.isStore = true →
          (robAt s k).busy = false ∧
            ∀ a : Word, ¬ (inAccess (robAt s k).addr (robAt s k).op.width a = true ∧ inAccess (e.vj + e.imm) e.op.width a = true))

/-- R172: a store in the LSB is eligible exactly when it is ready and every older load and store has resolved. -/
def Obligations.StoreEligibleIffOlderMemoryOpsResolved : Prop :=
  ∀ (s : State) (e : StationEntry), e.op.isStore = true →
    (eligible s .lsb e = true ↔
      (e.busy = true ∧ e.qj = none ∧ e.qk = none) ∧
        ∀ k : RobId, older s k e.dest = true → (robAt s k).op.isLoad = true ∨ (robAt s k).op.isStore = true → (robAt s k).busy = false)

/-- R175: at most one eligible entry fires, the oldest; nothing fires exactly when nothing is eligible. With another `SELECT` (log entry
2) it is some eligible entry, and each of them can be the choice. -/
def Obligations.SelectsOldestEligible : Prop :=
  ∀ s : State, (select s = none ↔ ∀ q : Pick, eligible s q.station (entryAt s q) = false) ∧
    (∀ p : Pick, select s = some p → eligible s p.station (entryAt s p) = true ∧
      (s.choices = [] → ∀ q : Pick, eligible s q.station (entryAt s q) = true → age s (entryAt s p).dest ≤ age s (entryAt s q).dest)) ∧
    (∀ q : Pick, eligible s q.station (entryAt s q) = true → ∃ c : Nat, select { s with choices := [c] } = some q)

/-- R177, R178, R180: in a consistent state, a fire that no misprediction discards makes its ROB entry ready with the value, frees its
slot, and fills every operand that waits for it; no other operand of a waiting entry changes. -/
def Obligations.FireReachesEveryWaiter : Prop :=
  ∀ (s t : State) (f : Fire), Consistent s → Active s → ¬ Mispredicts s → execute s = .ok (.fired f) → step s = .next t →
    (robAt t f.dest).busy = false ∧ (robAt t f.dest).value = f.value ∧ (∀ a, f.taddr = some a → (robAt t f.dest).addr = a) ∧
    entryAt t f.pick = { entryAt s f.pick with busy := false } ∧
    (∀ q : Pick, q ≠ f.pick → (entryAt s q).busy = true →
      (entryAt t q).busy = true ∧ (entryAt t q).dest = (entryAt s q).dest ∧
      ((entryAt s q).qj = some f.dest → (entryAt t q).qj = none ∧ (entryAt t q).vj = f.value) ∧
      ((entryAt s q).qj ≠ some f.dest → (entryAt t q).qj = (entryAt s q).qj ∧ (entryAt t q).vj = (entryAt s q).vj) ∧
      ((entryAt s q).qk = some f.dest → (entryAt t q).qk = none ∧ (entryAt t q).vk = f.value) ∧
      ((entryAt s q).qk ≠ some f.dest → (entryAt t q).qk = (entryAt s q).qk ∧ (entryAt t q).vk = (entryAt s q).vk))

/-- R186: when the selected entry is INVALID and no misprediction commits, `fatal` is set, its slot and its ROB entry stay as they are,
and nothing is broadcast. -/
def Obligations.InvalidFireIsFatal : Prop :=
  ∀ (s : State) (p : Pick), FullMemory s → Consistent s → Active s → ¬ Mispredicts s → select s = some p →
    (entryAt s p).op = .invalid →
    ∃ t, step s = .next t ∧ t.fatal = true ∧ cdbOf s = none ∧
      (∀ q : Pick, (entryAt s q).busy = true → entryAt t q = entryAt s q) ∧
      (∀ k : RobId, occupied s k = true → robAt t k = robAt s k)

/-- R187: with the default selection (`choices` empty: the model's form of `SELECT`, log entry 2), in every cycle in which the stages
act and the ROB is not empty, either the head is ready and retires, or the head's entry fires: the block never deadlocks. -/
def Obligations.HeadAlwaysProgresses : Prop :=
  ∀ s : State, FullMemory s → Consistent s → Active s → s.choices = [] → s.robSize ≠ 0 →
    ∃ t, step s = .next t ∧
      ((head s).busy = false → (head s).op ≠ .invalid → t.robHead = s.robHead + 1 ∨ t.flush = true) ∧
      ((head s).busy = true → ∃ p, select s = some p ∧ (entryAt s p).dest = s.robHead ∧
        (((head s).op = .invalid ∧ t.fatal = true) ∨ (robAt t s.robHead).busy = false))

/-! ### Issue -/

/-- R144, R145, R149: an instruction that can issue takes the tail of the ROB and the free slot of the lowest index, its operand slots
hold what the table of R149 asks for, and the entry names its ROB id. -/
def Obligations.IssueFillsStationEntry : Prop :=
  ∀ (s : State) (i : Instr), FullMemory s → CanIssue s (routeOf (recordOf i).op) →
    ∃ t k, exec i s = .next t ∧ FirstFree (stationBank s (routeOf (recordOf i).op)) k ∧
      (entryAt t ⟨routeOf (recordOf i).op, k⟩).busy = true ∧
      (entryAt t ⟨routeOf (recordOf i).op, k⟩).op = (recordOf i).op ∧
      (entryAt t ⟨routeOf (recordOf i).op, k⟩).imm = (recordOf i).imm ∧
      (entryAt t ⟨routeOf (recordOf i).op, k⟩).dest = s.robHead + s.robSize.setWidth 5 ∧
      Holds s (cdbOf s) (operandColumns (recordOf i) s.pc).1 (entryAt t ⟨routeOf (recordOf i).op, k⟩).vj
        (entryAt t ⟨routeOf (recordOf i).op, k⟩).qj ∧
      Holds s (cdbOf s) (operandColumns (recordOf i) s.pc).2 (entryAt t ⟨routeOf (recordOf i).op, k⟩).vk
        (entryAt t ⟨routeOf (recordOf i).op, k⟩).qk

/-- R150, R151, R155: the ROB entry of an instruction that issues, and its alias claim, which overrides a clear of the same cycle;
branches and stores, and an `rd` of 0, claim nothing, and every other alias is kept but for the one the retiring head clears (R300);
`rob.size` counts the issue and the commit (R124, R144); the sentinel sets `draining`, a JALR `block`. -/
def Obligations.IssueFillsRobAndClaims : Prop :=
  ∀ (s : State) (i : Instr), FullMemory s → CanIssue s (routeOf (recordOf i).op) →
    ∃ t, exec i s = .next t ∧ (robAt t (tail s)).busy = true ∧ (robAt t (tail s)).op = (recordOf i).op ∧
      (robAt t (tail s)).rd = (recordOf i).rd ∧ ((robAt t (tail s)).halt = true ↔ i = .halt) ∧
      ((recordOf i).op.writesReg = true → (recordOf i).rd ≠ 0 →
        Bank.get t.rat (recordOf i).rd = { busy := true, id := tail s }) ∧
      (∀ r : Reg, ¬ ((recordOf i).op.writesReg = true ∧ r = (recordOf i).rd ∧ r ≠ 0) → KeptOrCleared s t r) ∧
      SizeAfterIssue s t ∧
      (i = .halt → t.drainBit = true ∧ (t.halted = false → t.draining = true)) ∧ ((recordOf i).op = .jalr → t.block = true)

/-- R159: the frame of an issue into the empty pipeline. Beside the pc and the model's own count of free values, the meaning of an
instruction writes its slot, its ROB entry and its alias, and nothing else: no register, no byte, no other entry, no other flag. Of the
model's own fields, the parameters (log entry 3) and the stream of choices (log entry 2: a choice is kept when nothing fires) are
unchanged, and the count of free values (log entry 4) is excepted. -/
def Obligations.IssueTouchesOnlyItsEntries : Prop :=
  ∀ (s : State) (i : Instr), Drained s → FullMemory s →
    ∃ t, exec i s = .next t ∧ t.regs = s.regs ∧ t.mem = s.mem ∧ t.predCtr = s.predCtr ∧ t.robHead = s.robHead ∧ t.robSize = 1 ∧
      t.flush = false ∧ t.halted = false ∧ t.fatal = false ∧ t.params = s.params ∧ t.choices = s.choices ∧
      (t.block = true ↔ (recordOf i).op = .jalr) ∧ (t.drainBit = true ↔ i = .halt) ∧ (t.draining = true ↔ i = .halt) ∧
      (∀ k : RobId, k ≠ tail s → robAt t k = robAt s k) ∧
      (∀ q : Pick, q ≠ ⟨routeOf (recordOf i).op, 0⟩ → entryAt t q = entryAt s q) ∧
      (∀ r : Reg, ¬ ((recordOf i).op.writesReg = true ∧ r = (recordOf i).rd ∧ r ≠ 0) → Bank.get t.rat r = Bank.get s.rat r)

/-- R154: a branch records its prediction and the path not followed, and fetch goes on along the predicted one. -/
def Obligations.BranchIssueRecordsPrediction : Prop :=
  ∀ (s : State) (i : Instr), FullMemory s → CanIssue s .rs → (recordOf i).op.isBranch = true →
    ¬ JumpRegisterRetires s →
    ∃ t, exec i s = .next t ∧
      (2 ≤ s.predCtr.toNat →
        t.pc = s.pc + (recordOf i).imm ∧ (robAt t (tail s)).pred = true ∧ (robAt t (tail s)).addr = s.pc + 4) ∧
      (s.predCtr.toNat < 2 →
        t.pc = s.pc + 4 ∧ (robAt t (tail s)).pred = false ∧ (robAt t (tail s)).addr = s.pc + (recordOf i).imm)

/-- R157: the next pc of an instruction that issues, but for the branches. -/
def Obligations.IssueSetsNextPc : Prop :=
  ∀ (s : State) (i : Instr), FullMemory s → CanIssue s (routeOf (recordOf i).op) → (recordOf i).op.isBranch = false →
    ¬ JumpRegisterRetires s →
    ∃ t, exec i s = .next t ∧ t.pc = (if (recordOf i).op = .jal then s.pc + (recordOf i).imm else s.pc + 4) ∧
      ((recordOf i).op = .jal ∨ (recordOf i).op = .jalr → (robAt t (tail s)).value = s.pc + 4)

/-- R143: a full ROB, or no free slot in the target structure, stalls the instruction without side effects: the cycle is the one in which
Fetch hands nothing over, and the pc holds unless Commit redirects it. That no free value is handed out speaks of the model's own count,
which is the model's choice (log entry 4). The stall of an unrecognised word is `UnrecognisedWordIssue`. -/
def Obligations.FullStructureStallsIssue : Prop :=
  ∀ (s : State) (i : Instr), fetchActs s = true →
    (s.robSize = 32 ∨ ∀ k : Slot, (Bank.get (stationBank s (routeOf (recordOf i).op)) k).busy = true) →
    exec i s = activeCycle s none ∧
      ∀ t, exec i s = .next t → ¬ Mispredicts s → ¬ JumpRegisterRetires s →
        t.pc = s.pc ∧ t.freeCount = s.freeCount

/-- R156, R143 to R157: an unrecognised word, whatever else is in flight. It takes the free RS slot of the lowest index with no source,
the tail of the ROB with `rd` 0, claims nothing and is no error; the next pc is `p + 4`. It stalls when the ROB or the RS is full. -/
def Obligations.UnrecognisedWordIssue : Prop :=
  ∀ (s : State) (w : Word), FullMemory s → fetchWord s = .ok w → (decodeRecord w).op = .invalid →
    (CanIssue s .rs →
      ∃ t k, step s = .next t ∧ FirstFree s.rs k ∧
        entryAt t ⟨.rs, k⟩ =
          { busy := true, op := .invalid, vj := 0, qj := none, vk := 0, qk := none, imm := 0, dest := tail s } ∧
        (robAt t (tail s)).busy = true ∧ (robAt t (tail s)).op = .invalid ∧ (robAt t (tail s)).rd = 0 ∧
        (robAt t (tail s)).pred = false ∧ (robAt t (tail s)).halt = false ∧ (∀ r : Reg, KeptOrCleared s t r) ∧ SizeAfterIssue s t ∧
        t.block = false ∧ t.drainBit = false ∧ (¬ JumpRegisterRetires s → t.pc = s.pc + 4) ∧
        (t.fatal = true ↔ ∃ p, select s = some p ∧ (entryAt s p).op = .invalid)) ∧
    (fetchActs s = true → (s.robSize = 32 ∨ ∀ k : Slot, (Bank.get s.rs k).busy = true) →
      step s = activeCycle s none ∧ ∀ t, step s = .next t → ¬ Mispredicts s → ¬ JumpRegisterRetires s → t.pc = s.pc)

/-- R124, R144, R291: "`nxt.rob.size = cur.rob.size + issued - committed`" in every cycle that no misprediction flushes. A ready INVALID
head is left out: it cannot occur (R302, log entry 8). -/
def Obligations.RobSizeCountsIssuesAndCommits : Prop :=
  ∀ s t : State, Active s → ¬ Mispredicts s → step s = .next t →
    (HeadReady s → (head s).halt = true ∨ (head s).op ≠ .invalid → SizeAfter s t 1) ∧ (¬ HeadReady s → SizeAfter s t 0)

/-! ### Each instruction, alone in the pipeline, from its fetch to its commit -/

/-- R200, R201: LUI and AUIPC. -/
def Obligations.UpperImmediatesComplete : Prop :=
  ∀ s : State, Drained s → FullMemory s → ∀ (rd : Reg) (imm : Word),
    WritesRegister (.lui rd imm) s rd imm (s.pc + 4) ∧
    WritesRegister (.auipc rd imm) s rd (s.pc + imm) (s.pc + 4)

/-- R210 to R215: the loads, with the bytes little-endian at the effective address. -/
def Obligations.LoadsComplete : Prop :=
  ∀ s : State, Drained s → FullMemory s → ∀ (rd rs1 : Reg) (imm : Word),
    WritesRegister (.lb rd rs1 imm) s rd ((memByte s.mem (readReg s rs1 + imm)).signExtend 32) (s.pc + 4) ∧
    WritesRegister (.lh rd rs1 imm) s rd
      ((memByte s.mem (readReg s rs1 + imm + 1) ++ memByte s.mem (readReg s rs1 + imm) : BitVec 16).signExtend 32) (s.pc + 4) ∧
    WritesRegister (.lw rd rs1 imm) s rd
      (memByte s.mem (readReg s rs1 + imm + 3) ++ memByte s.mem (readReg s rs1 + imm + 2) ++
        memByte s.mem (readReg s rs1 + imm + 1) ++ memByte s.mem (readReg s rs1 + imm) : BitVec 32) (s.pc + 4) ∧
    WritesRegister (.lbu rd rs1 imm) s rd ((memByte s.mem (readReg s rs1 + imm)).setWidth 32) (s.pc + 4) ∧
    WritesRegister (.lhu rd rs1 imm) s rd
      ((memByte s.mem (readReg s rs1 + imm + 1) ++ memByte s.mem (readReg s rs1 + imm) : BitVec 16).setWidth 32) (s.pc + 4)

/-- R216 to R219: the stores. -/
def Obligations.StoresComplete : Prop :=
  ∀ s : State, Drained s → FullMemory s → s.mem.wf = true → ∀ (rs1 rs2 : Reg) (imm : Word),
    StoresBytes (.sb rs1 rs2 imm) s (readReg s rs1 + imm) .byte (readReg s rs2) ∧
    StoresBytes (.sh rs1 rs2 imm) s (readReg s rs1 + imm) .half (readReg s rs2) ∧
    StoresBytes (.sw rs1 rs2 imm) s (readReg s rs1 + imm) .word (readReg s rs2)

/-- R229 to R235: ADDI, SLTI, SLTIU, XORI, ORI, ANDI. -/
def Obligations.ImmediateArithmeticCompletes : Prop :=
  ∀ s : State, Drained s → FullMemory s → ∀ (rd rs1 : Reg) (imm : Word),
    WritesRegister (.addi rd rs1 imm) s rd (readReg s rs1 + imm) (s.pc + 4) ∧
    WritesRegister (.slti rd rs1 imm) s rd (if (readReg s rs1).toInt < imm.toInt then 1 else 0) (s.pc + 4) ∧
    WritesRegister (.sltiu rd rs1 imm) s rd (if (readReg s rs1).toNat < imm.toNat then 1 else 0) (s.pc + 4) ∧
    WritesRegister (.xori rd rs1 imm) s rd (readReg s rs1 ^^^ imm) (s.pc + 4) ∧
    WritesRegister (.ori rd rs1 imm) s rd (readReg s rs1 ||| imm) (s.pc + 4) ∧
    WritesRegister (.andi rd rs1 imm) s rd (readReg s rs1 &&& imm) (s.pc + 4)

/-- R229, R236 to R238: SLLI, SRLI, SRAI; the arithmetic shift is "floor division of `s(x[rs1])` by 2^shamt". -/
def Obligations.ImmediateShiftsComplete : Prop :=
  ∀ s : State, Drained s → FullMemory s → ∀ (rd rs1 : Reg) (shamt : BitVec 5),
    WritesRegister (.slli rd rs1 shamt) s rd (BitVec.ofNat 32 ((readReg s rs1).toNat * 2 ^ shamt.toNat)) (s.pc + 4) ∧
    WritesRegister (.srli rd rs1 shamt) s rd (BitVec.ofNat 32 ((readReg s rs1).toNat / 2 ^ shamt.toNat)) (s.pc + 4) ∧
    WritesRegister (.srai rd rs1 shamt) s rd (BitVec.ofInt 32 ((readReg s rs1).toInt / 2 ^ shamt.toNat)) (s.pc + 4)

/-- R249 to R259: the ten register-register operations; a shift takes bits 4:0 of its second operand. -/
def Obligations.RegisterArithmeticCompletes : Prop :=
  ∀ s : State, Drained s → FullMemory s → ∀ (rd rs1 rs2 : Reg),
    WritesRegister (.add rd rs1 rs2) s rd (readReg s rs1 + readReg s rs2) (s.pc + 4) ∧
    WritesRegister (.sub rd rs1 rs2) s rd (readReg s rs1 - readReg s rs2) (s.pc + 4) ∧
    WritesRegister (.sll rd rs1 rs2) s rd (readReg s rs1 <<< ((readReg s rs2).toNat % 32)) (s.pc + 4) ∧
    WritesRegister (.slt rd rs1 rs2) s rd (if (readReg s rs1).toInt < (readReg s rs2).toInt then 1 else 0) (s.pc + 4) ∧
    WritesRegister (.sltu rd rs1 rs2) s rd (if (readReg s rs1).toNat < (readReg s rs2).toNat then 1 else 0) (s.pc + 4) ∧
    WritesRegister (.xor rd rs1 rs2) s rd (readReg s rs1 ^^^ readReg s rs2) (s.pc + 4) ∧
    WritesRegister (.srl rd rs1 rs2) s rd (readReg s rs1 >>> ((readReg s rs2).toNat % 32)) (s.pc + 4) ∧
    WritesRegister (.sra rd rs1 rs2) s rd ((readReg s rs1).sshiftRight ((readReg s rs2).toNat % 32)) (s.pc + 4) ∧
    WritesRegister (.or rd rs1 rs2) s rd (readReg s rs1 ||| readReg s rs2) (s.pc + 4) ∧
    WritesRegister (.and rd rs1 rs2) s rd (readReg s rs1 &&& readReg s rs2) (s.pc + 4)

/-- R269 to R275: the six branches, for every counter value. -/
def Obligations.BranchesComplete : Prop :=
  ∀ s : State, Drained s → FullMemory s → ∀ (rs1 rs2 : Reg) (imm : Word),
    Branches (.beq rs1 rs2 imm) s (readReg s rs1 = readReg s rs2) imm ∧
    Branches (.bne rs1 rs2 imm) s (readReg s rs1 ≠ readReg s rs2) imm ∧
    Branches (.blt rs1 rs2 imm) s ((readReg s rs1).toInt < (readReg s rs2).toInt) imm ∧
    Branches (.bge rs1 rs2 imm) s ((readReg s rs2).toInt ≤ (readReg s rs1).toInt) imm ∧
    Branches (.bltu rs1 rs2 imm) s ((readReg s rs1).toNat < (readReg s rs2).toNat) imm ∧
    Branches (.bgeu rs1 rs2 imm) s ((readReg s rs2).toNat ≤ (readReg s rs1).toNat) imm

/-- R276: JAL: the link written, the target fetched next, set at issue. -/
def Obligations.JumpAndLinkCompletes : Prop :=
  ∀ s : State, Drained s → FullMemory s → ∀ (rd : Reg) (imm : Word),
    WritesRegister (.jal rd imm) s rd (s.pc + 4) (s.pc + imm)

/-- R277: JALR: fetch blocked from the issue to the commit; the target from the old `x[rs1]` with bit 0 cleared, also when `rd` is
`rs1`. -/
def Obligations.JumpRegisterCompletes : Prop :=
  ∀ s : State, Drained s → FullMemory s → ∀ (rd rs1 : Reg) (imm : Word),
    WritesRegister (.jalr rd rs1 imm) s rd (s.pc + 4) (s.pc + 4) ∧
    ∃ t1 t2 t3, ThreeCycles (.jalr rd rs1 imm) s t1 t2 t3 ∧ t1.block = true ∧ t2.block = true ∧ t3.block = false ∧
      t3.pc = (readReg s rs1 + imm) &&& 0xFFFFFFFE ∧ t3.robSize = 0

/-- R278: HALT: nothing is fetched after it until the run halts (R35, log entry 7); it halts with x10 as it was, and writes no register
and no byte. -/
def Obligations.SentinelCompletes : Prop :=
  ∀ s : State, Drained s → FullMemory s →
    ∃ t1 t2 t3, ThreeCycles .halt s t1 t2 t3 ∧ t1.draining = true ∧ t3.draining = false ∧ t1.pc = s.pc + 4 ∧ t3.pc = s.pc + 4 ∧ t3.halted = true ∧
      t3.fatal = false ∧ t3.robSize = 0 ∧ exitValue t3 = (readReg s 10).extractLsb' 0 8 ∧
      (∀ r : Reg, readReg t3 r = readReg s r) ∧ (∀ a : Word, memByte t3.mem a = memByte s.mem a) ∧ t3.predCtr = s.predCtr

/-- R279: an unrecognised word alone in the pipeline: issued in one cycle, `fatal` after the next, and neither a register nor a byte is
written. -/
def Obligations.UnrecognisedWordBecomesFatal : Prop :=
  ∀ (s : State) (w : Word), Drained s → FullMemory s → fetchWord s = .ok w → (decodeRecord w).op = .invalid →
    ∃ t1 t2, step s = .next t1 ∧ step t1 = .next t2 ∧ t1.fatal = false ∧ t1.pc = s.pc + 4 ∧ t2.fatal = true ∧
      (∀ r : Reg, readReg t2 r = readReg s r) ∧ (∀ a : Word, memByte t2.mem a = memByte s.mem a) ∧
      (∀ r : Reg, (Bank.get t1.rat r).busy = false)

/-! ### The block and sequential execution -/

/-- For every instruction, the three cycles of the block from a drained state have the architectural effect of one step of `Seq`, and
fetch goes on, or is corrected to go on, at the next instruction of `Seq` (R305, R306, R367). -/
def Obligations.DrainedInstructionRefinesSeq : Prop :=
  ∀ (s : State) (i : Instr), Drained s → FullMemory s →
    ∃ t1 t2 t3, ThreeCycles i s t1 t2 t3 ∧
      (∀ r : Reg, readReg t3 r = (seqExec i (archOf s)).get r) ∧
      (∀ a : Word, memByte t3.mem a = memByte (seqExec i (archOf s)).mem a) ∧
      (i = .halt → t3.halted = true) ∧
      (i ≠ .halt → (recordOf i).op ≠ .jalr → t3.flush = false → t1.pc = (seqExec i (archOf s)).pc) ∧
      ((recordOf i).op = .jalr ∨ t3.flush = true → t3.pc = (seqExec i (archOf s)).pc)

/-- R306 (b), (e), offered there as the main theorem: if the block reaches `halted`, with any selection (the stream of choices, the
model's form of `SELECT`, log entry 2) and any initial counter, then `Seq` halts with the same registers and the same memory, for a
program that does not store into its own instruction stream. -/
def Obligations.HaltedRunAgreesWithSeq : Prop :=
  ∀ (p : Params) (m : Mem) (choices : List Nat) (n : Nat) (t : State), p.memBytes = 4294967296 → m.wf = true →
    NoSelfModification (archOf (State.resetWith p m)) → after n (startOf p m choices) = some t → t.halted = true →
    ∃ k a, seqRun k (archOf (State.resetWith p m)) = .halted a ∧ (∀ r : Reg, a.get r = readReg t r) ∧
      (∀ x : Word, memByte a.mem x = memByte t.mem x) ∧ exitValue t = (a.get 10).extractLsb' 0 8
end

