-- ==== Sys2Proof/Laws/Bank.lean ====
section
/-! SUPPORT. The laws of the 32-entry banks. -/

namespace Sys2Proof.Machine

variable {α : Type}

@[simp] theorem Bank.get_put_same (v : Bank α) (i : BitVec 5) (a : α) : Bank.get (Bank.put v i a) i = a := by
  simp [Bank.get, Bank.put]

theorem Bank.get_put_ne (v : Bank α) {i j : BitVec 5} (a : α) (h : i ≠ j) :
    Bank.get (Bank.put v i a) j = Bank.get v j := by
  have : i.toNat ≠ j.toNat := fun e => h (BitVec.eq_of_toNat_eq e)
  simp [Bank.get, Bank.put, Vector.getElem_set_ne, this]

/-- What a bank holds after one entry is replaced. -/
theorem Bank.get_put (v : Bank α) (i j : BitVec 5) (a : α) :
    Bank.get (Bank.put v i a) j = if i = j then a else Bank.get v j := by
  by_cases h : i = j
  · subst h; simp
  · simp [h, Bank.get_put_ne]

@[simp] theorem Bank.get_sweep (f : α → α) (v : Bank α) (i : BitVec 5) : Bank.get (Bank.sweep f v) i = f (Bank.get v i) := by
  simp [Bank.get, Bank.sweep]

@[simp] theorem Bank.get_replicate (a : α) (i : BitVec 5) : Bank.get (Vector.replicate 32 a) i = a := by
  simp [Bank.get]

/-- Two banks with the same entries are the same bank. -/
theorem Bank.ext_get {v w : Bank α} (h : ∀ i, Bank.get v i = Bank.get w i) : v = w := by
  apply Vector.ext
  intro k hk
  have := h (BitVec.ofNat 5 k)
  have e : (BitVec.ofNat 5 k).toNat = k := by simp [BitVec.toNat_ofNat]; omega
  simpa [Bank.get, e] using this

@[simp] theorem mem_indices (i : BitVec 5) : i ∈ indices := by
  simp only [indices, List.mem_map, List.mem_range]
  exact ⟨i.toNat, i.isLt, by simp⟩

end Sys2Proof.Machine
end

