-- ==== Sys2Proof/Laws/State.lean ====
section
/-! SUPPORT. What each update of the state does to each field, true by definition, so that no later proof unfolds a record update. -/

namespace Sys2Proof.Machine

/-! ### The draining flag -/

theorem State.draining_eq_true_iff (s : State) : s.draining = true ↔ s.drainBit = true ∧ s.halted = false := by
  simp [State.draining]
/-- While the run has not halted the flag is its stored bit (R35). -/
theorem State.draining_of_not_halted {s : State} (h : s.halted = false) : s.draining = s.drainBit := by
  simp [State.draining, h]
/-- In a halted state the flag is over (R35). -/
theorem State.draining_of_halted {s : State} (h : s.halted = true) : s.draining = false := by
  simp [State.draining, h]

/-! ### writeReg -/

@[simp] theorem writeReg_params (s : State) (r : Reg) (v : Word) : (writeReg s r v).params = s.params := rfl
@[simp] theorem writeReg_regs (s : State) (r : Reg) (v : Word) : (writeReg s r v).regs = if r = 0 then s.regs else Bank.put s.regs r v := rfl
@[simp] theorem writeReg_pc (s : State) (r : Reg) (v : Word) : (writeReg s r v).pc = s.pc := rfl
@[simp] theorem writeReg_rat (s : State) (r : Reg) (v : Word) : (writeReg s r v).rat = s.rat := rfl
@[simp] theorem writeReg_rs (s : State) (r : Reg) (v : Word) : (writeReg s r v).rs = s.rs := rfl
@[simp] theorem writeReg_lsb (s : State) (r : Reg) (v : Word) : (writeReg s r v).lsb = s.lsb := rfl
@[simp] theorem writeReg_rob (s : State) (r : Reg) (v : Word) : (writeReg s r v).rob = s.rob := rfl
@[simp] theorem writeReg_robHead (s : State) (r : Reg) (v : Word) : (writeReg s r v).robHead = s.robHead := rfl
@[simp] theorem writeReg_robSize (s : State) (r : Reg) (v : Word) : (writeReg s r v).robSize = s.robSize := rfl
@[simp] theorem writeReg_predCtr (s : State) (r : Reg) (v : Word) : (writeReg s r v).predCtr = s.predCtr := rfl
@[simp] theorem writeReg_flush (s : State) (r : Reg) (v : Word) : (writeReg s r v).flush = s.flush := rfl
@[simp] theorem writeReg_block (s : State) (r : Reg) (v : Word) : (writeReg s r v).block = s.block := rfl
@[simp] theorem writeReg_drainBit (s : State) (r : Reg) (v : Word) : (writeReg s r v).drainBit = s.drainBit := rfl
@[simp] theorem writeReg_halted (s : State) (r : Reg) (v : Word) : (writeReg s r v).halted = s.halted := rfl
@[simp] theorem writeReg_fatal (s : State) (r : Reg) (v : Word) : (writeReg s r v).fatal = s.fatal := rfl
@[simp] theorem writeReg_mem (s : State) (r : Reg) (v : Word) : (writeReg s r v).mem = s.mem := rfl
@[simp] theorem writeReg_choices (s : State) (r : Reg) (v : Word) : (writeReg s r v).choices = s.choices := rfl
@[simp] theorem writeReg_freeCount (s : State) (r : Reg) (v : Word) : (writeReg s r v).freeCount = s.freeCount := rfl

/-! ### raiseFatal -/

@[simp] theorem raiseFatal_params (s : State) : (raiseFatal s).params = s.params := rfl
@[simp] theorem raiseFatal_regs (s : State) : (raiseFatal s).regs = s.regs := rfl
@[simp] theorem raiseFatal_pc (s : State) : (raiseFatal s).pc = s.pc := rfl
@[simp] theorem raiseFatal_rat (s : State) : (raiseFatal s).rat = s.rat := rfl
@[simp] theorem raiseFatal_rs (s : State) : (raiseFatal s).rs = s.rs := rfl
@[simp] theorem raiseFatal_lsb (s : State) : (raiseFatal s).lsb = s.lsb := rfl
@[simp] theorem raiseFatal_rob (s : State) : (raiseFatal s).rob = s.rob := rfl
@[simp] theorem raiseFatal_robHead (s : State) : (raiseFatal s).robHead = s.robHead := rfl
@[simp] theorem raiseFatal_robSize (s : State) : (raiseFatal s).robSize = s.robSize := rfl
@[simp] theorem raiseFatal_predCtr (s : State) : (raiseFatal s).predCtr = s.predCtr := rfl
@[simp] theorem raiseFatal_flush (s : State) : (raiseFatal s).flush = s.flush := rfl
@[simp] theorem raiseFatal_block (s : State) : (raiseFatal s).block = s.block := rfl
@[simp] theorem raiseFatal_drainBit (s : State) : (raiseFatal s).drainBit = s.drainBit := rfl
@[simp] theorem raiseFatal_halted (s : State) : (raiseFatal s).halted = s.halted := rfl
@[simp] theorem raiseFatal_fatal (s : State) : (raiseFatal s).fatal = true := rfl
@[simp] theorem raiseFatal_mem (s : State) : (raiseFatal s).mem = s.mem := rfl
@[simp] theorem raiseFatal_choices (s : State) : (raiseFatal s).choices = s.choices := rfl
@[simp] theorem raiseFatal_freeCount (s : State) : (raiseFatal s).freeCount = s.freeCount := rfl

/-! ### retireHead -/

@[simp] theorem retireHead_params (s : State) : (retireHead s).params = s.params := rfl
@[simp] theorem retireHead_regs (s : State) : (retireHead s).regs = s.regs := rfl
@[simp] theorem retireHead_pc (s : State) : (retireHead s).pc = s.pc := rfl
@[simp] theorem retireHead_rat (s : State) : (retireHead s).rat = s.rat := rfl
@[simp] theorem retireHead_rs (s : State) : (retireHead s).rs = s.rs := rfl
@[simp] theorem retireHead_lsb (s : State) : (retireHead s).lsb = s.lsb := rfl
@[simp] theorem retireHead_rob (s : State) : (retireHead s).rob = s.rob := rfl
@[simp] theorem retireHead_robHead (s : State) : (retireHead s).robHead = s.robHead + 1 := rfl
@[simp] theorem retireHead_robSize (s : State) : (retireHead s).robSize = s.robSize - 1 := rfl
@[simp] theorem retireHead_predCtr (s : State) : (retireHead s).predCtr = s.predCtr := rfl
@[simp] theorem retireHead_flush (s : State) : (retireHead s).flush = s.flush := rfl
@[simp] theorem retireHead_block (s : State) : (retireHead s).block = s.block := rfl
@[simp] theorem retireHead_drainBit (s : State) : (retireHead s).drainBit = s.drainBit := rfl
@[simp] theorem retireHead_halted (s : State) : (retireHead s).halted = s.halted := rfl
@[simp] theorem retireHead_fatal (s : State) : (retireHead s).fatal = s.fatal := rfl
@[simp] theorem retireHead_mem (s : State) : (retireHead s).mem = s.mem := rfl
@[simp] theorem retireHead_choices (s : State) : (retireHead s).choices = s.choices := rfl
@[simp] theorem retireHead_freeCount (s : State) : (retireHead s).freeCount = s.freeCount := rfl

/-! ### commitBranch -/

@[simp] theorem commitBranch_params (s : State) (e : RobEntry) : (commitBranch s e).params = s.params := rfl
@[simp] theorem commitBranch_regs (s : State) (e : RobEntry) : (commitBranch s e).regs = s.regs := rfl
@[simp] theorem commitBranch_pc (s : State) (e : RobEntry) : (commitBranch s e).pc = s.pc := rfl
@[simp] theorem commitBranch_rat (s : State) (e : RobEntry) : (commitBranch s e).rat = s.rat := rfl
@[simp] theorem commitBranch_rs (s : State) (e : RobEntry) : (commitBranch s e).rs = s.rs := rfl
@[simp] theorem commitBranch_lsb (s : State) (e : RobEntry) : (commitBranch s e).lsb = s.lsb := rfl
@[simp] theorem commitBranch_rob (s : State) (e : RobEntry) : (commitBranch s e).rob = s.rob := rfl
@[simp] theorem commitBranch_robHead (s : State) (e : RobEntry) : (commitBranch s e).robHead = s.robHead := rfl
@[simp] theorem commitBranch_robSize (s : State) (e : RobEntry) : (commitBranch s e).robSize = s.robSize := rfl
@[simp] theorem commitBranch_predCtr (s : State) (e : RobEntry) : (commitBranch s e).predCtr = updateCtr e.pred (actualTaken e) s.predCtr := rfl
@[simp] theorem commitBranch_flush (s : State) (e : RobEntry) : (commitBranch s e).flush = s.flush := rfl
@[simp] theorem commitBranch_block (s : State) (e : RobEntry) : (commitBranch s e).block = s.block := rfl
@[simp] theorem commitBranch_drainBit (s : State) (e : RobEntry) : (commitBranch s e).drainBit = s.drainBit := rfl
@[simp] theorem commitBranch_halted (s : State) (e : RobEntry) : (commitBranch s e).halted = s.halted := rfl
@[simp] theorem commitBranch_fatal (s : State) (e : RobEntry) : (commitBranch s e).fatal = s.fatal := rfl
@[simp] theorem commitBranch_mem (s : State) (e : RobEntry) : (commitBranch s e).mem = s.mem := rfl
@[simp] theorem commitBranch_choices (s : State) (e : RobEntry) : (commitBranch s e).choices = s.choices := rfl
@[simp] theorem commitBranch_freeCount (s : State) (e : RobEntry) : (commitBranch s e).freeCount = s.freeCount := rfl

/-! ### commitStore -/

@[simp] theorem commitStore_params (s : State) (e : RobEntry) : (commitStore s e).params = s.params := rfl
@[simp] theorem commitStore_regs (s : State) (e : RobEntry) : (commitStore s e).regs = s.regs := rfl
@[simp] theorem commitStore_pc (s : State) (e : RobEntry) : (commitStore s e).pc = s.pc := rfl
@[simp] theorem commitStore_rat (s : State) (e : RobEntry) : (commitStore s e).rat = s.rat := rfl
@[simp] theorem commitStore_rs (s : State) (e : RobEntry) : (commitStore s e).rs = s.rs := rfl
@[simp] theorem commitStore_lsb (s : State) (e : RobEntry) : (commitStore s e).lsb = s.lsb := rfl
@[simp] theorem commitStore_rob (s : State) (e : RobEntry) : (commitStore s e).rob = s.rob := rfl
@[simp] theorem commitStore_robHead (s : State) (e : RobEntry) : (commitStore s e).robHead = s.robHead := rfl
@[simp] theorem commitStore_robSize (s : State) (e : RobEntry) : (commitStore s e).robSize = s.robSize := rfl
@[simp] theorem commitStore_predCtr (s : State) (e : RobEntry) : (commitStore s e).predCtr = s.predCtr := rfl
@[simp] theorem commitStore_flush (s : State) (e : RobEntry) : (commitStore s e).flush = s.flush := rfl
@[simp] theorem commitStore_block (s : State) (e : RobEntry) : (commitStore s e).block = s.block := rfl
@[simp] theorem commitStore_drainBit (s : State) (e : RobEntry) : (commitStore s e).drainBit = s.drainBit := rfl
@[simp] theorem commitStore_halted (s : State) (e : RobEntry) : (commitStore s e).halted = s.halted := rfl
@[simp] theorem commitStore_fatal (s : State) (e : RobEntry) : (commitStore s e).fatal = s.fatal := rfl
@[simp] theorem commitStore_mem (s : State) (e : RobEntry) : (commitStore s e).mem = memWrite s.mem e.addr e.op.width e.value := rfl
@[simp] theorem commitStore_choices (s : State) (e : RobEntry) : (commitStore s e).choices = s.choices := rfl
@[simp] theorem commitStore_freeCount (s : State) (e : RobEntry) : (commitStore s e).freeCount = s.freeCount := rfl

/-! ### commitRegister -/

@[simp] theorem commitRegister_params (s : State) (h : RobId) (e : RobEntry) : (commitRegister s h e).params = s.params := rfl
@[simp] theorem commitRegister_regs (s : State) (h : RobId) (e : RobEntry) : (commitRegister s h e).regs = if e.rd = 0 then s.regs else Bank.put s.regs e.rd e.value := rfl
@[simp] theorem commitRegister_pc (s : State) (h : RobId) (e : RobEntry) : (commitRegister s h e).pc = s.pc := rfl
@[simp] theorem commitRegister_rat (s : State) (h : RobId) (e : RobEntry) : (commitRegister s h e).rat = clearClaim s.rat e.rd h := rfl
@[simp] theorem commitRegister_rs (s : State) (h : RobId) (e : RobEntry) : (commitRegister s h e).rs = s.rs := rfl
@[simp] theorem commitRegister_lsb (s : State) (h : RobId) (e : RobEntry) : (commitRegister s h e).lsb = s.lsb := rfl
@[simp] theorem commitRegister_rob (s : State) (h : RobId) (e : RobEntry) : (commitRegister s h e).rob = s.rob := rfl
@[simp] theorem commitRegister_robHead (s : State) (h : RobId) (e : RobEntry) : (commitRegister s h e).robHead = s.robHead := rfl
@[simp] theorem commitRegister_robSize (s : State) (h : RobId) (e : RobEntry) : (commitRegister s h e).robSize = s.robSize := rfl
@[simp] theorem commitRegister_predCtr (s : State) (h : RobId) (e : RobEntry) : (commitRegister s h e).predCtr = s.predCtr := rfl
@[simp] theorem commitRegister_flush (s : State) (h : RobId) (e : RobEntry) : (commitRegister s h e).flush = s.flush := rfl
@[simp] theorem commitRegister_block (s : State) (h : RobId) (e : RobEntry) : (commitRegister s h e).block = s.block := rfl
@[simp] theorem commitRegister_drainBit (s : State) (h : RobId) (e : RobEntry) : (commitRegister s h e).drainBit = s.drainBit := rfl
@[simp] theorem commitRegister_halted (s : State) (h : RobId) (e : RobEntry) : (commitRegister s h e).halted = s.halted := rfl
@[simp] theorem commitRegister_fatal (s : State) (h : RobId) (e : RobEntry) : (commitRegister s h e).fatal = s.fatal := rfl
@[simp] theorem commitRegister_mem (s : State) (h : RobId) (e : RobEntry) : (commitRegister s h e).mem = s.mem := rfl
@[simp] theorem commitRegister_choices (s : State) (h : RobId) (e : RobEntry) : (commitRegister s h e).choices = s.choices := rfl
@[simp] theorem commitRegister_freeCount (s : State) (h : RobId) (e : RobEntry) : (commitRegister s h e).freeCount = s.freeCount := rfl

/-! ### commitJalr -/

@[simp] theorem commitJalr_params (s : State) (h : RobId) (e : RobEntry) : (commitJalr s h e).params = s.params := rfl
@[simp] theorem commitJalr_regs (s : State) (h : RobId) (e : RobEntry) : (commitJalr s h e).regs = if e.rd = 0 then s.regs else Bank.put s.regs e.rd e.value := rfl
@[simp] theorem commitJalr_pc (s : State) (h : RobId) (e : RobEntry) : (commitJalr s h e).pc = e.addr := rfl
@[simp] theorem commitJalr_rat (s : State) (h : RobId) (e : RobEntry) : (commitJalr s h e).rat = clearClaim s.rat e.rd h := rfl
@[simp] theorem commitJalr_rs (s : State) (h : RobId) (e : RobEntry) : (commitJalr s h e).rs = s.rs := rfl
@[simp] theorem commitJalr_lsb (s : State) (h : RobId) (e : RobEntry) : (commitJalr s h e).lsb = s.lsb := rfl
@[simp] theorem commitJalr_rob (s : State) (h : RobId) (e : RobEntry) : (commitJalr s h e).rob = s.rob := rfl
@[simp] theorem commitJalr_robHead (s : State) (h : RobId) (e : RobEntry) : (commitJalr s h e).robHead = s.robHead := rfl
@[simp] theorem commitJalr_robSize (s : State) (h : RobId) (e : RobEntry) : (commitJalr s h e).robSize = s.robSize := rfl
@[simp] theorem commitJalr_predCtr (s : State) (h : RobId) (e : RobEntry) : (commitJalr s h e).predCtr = s.predCtr := rfl
@[simp] theorem commitJalr_flush (s : State) (h : RobId) (e : RobEntry) : (commitJalr s h e).flush = s.flush := rfl
@[simp] theorem commitJalr_block (s : State) (h : RobId) (e : RobEntry) : (commitJalr s h e).block = false := rfl
@[simp] theorem commitJalr_drainBit (s : State) (h : RobId) (e : RobEntry) : (commitJalr s h e).drainBit = s.drainBit := rfl
@[simp] theorem commitJalr_halted (s : State) (h : RobId) (e : RobEntry) : (commitJalr s h e).halted = s.halted := rfl
@[simp] theorem commitJalr_fatal (s : State) (h : RobId) (e : RobEntry) : (commitJalr s h e).fatal = s.fatal := rfl
@[simp] theorem commitJalr_mem (s : State) (h : RobId) (e : RobEntry) : (commitJalr s h e).mem = s.mem := rfl
@[simp] theorem commitJalr_choices (s : State) (h : RobId) (e : RobEntry) : (commitJalr s h e).choices = s.choices := rfl
@[simp] theorem commitJalr_freeCount (s : State) (h : RobId) (e : RobEntry) : (commitJalr s h e).freeCount = s.freeCount := rfl

/-! ### commitHalt -/

@[simp] theorem commitHalt_params (s : State) (h : RobId) (e : RobEntry) : (commitHalt s h e).params = s.params := rfl
@[simp] theorem commitHalt_regs (s : State) (h : RobId) (e : RobEntry) : (commitHalt s h e).regs = s.regs := rfl
@[simp] theorem commitHalt_pc (s : State) (h : RobId) (e : RobEntry) : (commitHalt s h e).pc = s.pc := rfl
@[simp] theorem commitHalt_rat (s : State) (h : RobId) (e : RobEntry) : (commitHalt s h e).rat = clearClaim s.rat e.rd h := rfl
@[simp] theorem commitHalt_rs (s : State) (h : RobId) (e : RobEntry) : (commitHalt s h e).rs = s.rs := rfl
@[simp] theorem commitHalt_lsb (s : State) (h : RobId) (e : RobEntry) : (commitHalt s h e).lsb = s.lsb := rfl
@[simp] theorem commitHalt_rob (s : State) (h : RobId) (e : RobEntry) : (commitHalt s h e).rob = s.rob := rfl
@[simp] theorem commitHalt_robHead (s : State) (h : RobId) (e : RobEntry) : (commitHalt s h e).robHead = s.robHead := rfl
@[simp] theorem commitHalt_robSize (s : State) (h : RobId) (e : RobEntry) : (commitHalt s h e).robSize = s.robSize := rfl
@[simp] theorem commitHalt_predCtr (s : State) (h : RobId) (e : RobEntry) : (commitHalt s h e).predCtr = s.predCtr := rfl
@[simp] theorem commitHalt_flush (s : State) (h : RobId) (e : RobEntry) : (commitHalt s h e).flush = s.flush := rfl
@[simp] theorem commitHalt_block (s : State) (h : RobId) (e : RobEntry) : (commitHalt s h e).block = s.block := rfl
@[simp] theorem commitHalt_drainBit (s : State) (h : RobId) (e : RobEntry) : (commitHalt s h e).drainBit = s.drainBit := rfl
@[simp] theorem commitHalt_halted (s : State) (h : RobId) (e : RobEntry) : (commitHalt s h e).halted = true := rfl
@[simp] theorem commitHalt_fatal (s : State) (h : RobId) (e : RobEntry) : (commitHalt s h e).fatal = s.fatal := rfl
@[simp] theorem commitHalt_mem (s : State) (h : RobId) (e : RobEntry) : (commitHalt s h e).mem = s.mem := rfl
@[simp] theorem commitHalt_choices (s : State) (h : RobId) (e : RobEntry) : (commitHalt s h e).choices = s.choices := rfl
@[simp] theorem commitHalt_freeCount (s : State) (h : RobId) (e : RobEntry) : (commitHalt s h e).freeCount = s.freeCount := rfl

/-! ### flushState -/

@[simp] theorem flushState_params (s : State) (e : RobEntry) : (flushState s e).params = s.params := rfl
@[simp] theorem flushState_regs (s : State) (e : RobEntry) : (flushState s e).regs = s.regs := rfl
@[simp] theorem flushState_pc (s : State) (e : RobEntry) : (flushState s e).pc = e.addr := rfl
@[simp] theorem flushState_rat (s : State) (e : RobEntry) : (flushState s e).rat = Bank.sweep (fun x => { x with busy := false }) s.rat := rfl
@[simp] theorem flushState_rs (s : State) (e : RobEntry) : (flushState s e).rs = Bank.sweep (fun x => { x with busy := false }) s.rs := rfl
@[simp] theorem flushState_lsb (s : State) (e : RobEntry) : (flushState s e).lsb = Bank.sweep (fun x => { x with busy := false }) s.lsb := rfl
@[simp] theorem flushState_rob (s : State) (e : RobEntry) : (flushState s e).rob = s.rob := rfl
@[simp] theorem flushState_robHead (s : State) (e : RobEntry) : (flushState s e).robHead = 0 := rfl
@[simp] theorem flushState_robSize (s : State) (e : RobEntry) : (flushState s e).robSize = 0 := rfl
@[simp] theorem flushState_predCtr (s : State) (e : RobEntry) : (flushState s e).predCtr = updateCtr e.pred (actualTaken e) s.predCtr := rfl
@[simp] theorem flushState_flush (s : State) (e : RobEntry) : (flushState s e).flush = true := rfl
@[simp] theorem flushState_block (s : State) (e : RobEntry) : (flushState s e).block = false := rfl
@[simp] theorem flushState_drainBit (s : State) (e : RobEntry) : (flushState s e).drainBit = false := rfl
@[simp] theorem flushState_halted (s : State) (e : RobEntry) : (flushState s e).halted = s.halted := rfl
@[simp] theorem flushState_fatal (s : State) (e : RobEntry) : (flushState s e).fatal = s.fatal := rfl
@[simp] theorem flushState_mem (s : State) (e : RobEntry) : (flushState s e).mem = s.mem := rfl
@[simp] theorem flushState_choices (s : State) (e : RobEntry) : (flushState s e).choices = s.choices := rfl
@[simp] theorem flushState_freeCount (s : State) (e : RobEntry) : (flushState s e).freeCount = s.freeCount := rfl

/-! ### applyFire -/

@[simp] theorem applyFire_params (f : Fire) (s : State) : (applyFire f s).params = s.params := rfl
@[simp] theorem applyFire_regs (f : Fire) (s : State) : (applyFire f s).regs = s.regs := rfl
@[simp] theorem applyFire_pc (f : Fire) (s : State) : (applyFire f s).pc = s.pc := rfl
@[simp] theorem applyFire_rat (f : Fire) (s : State) : (applyFire f s).rat = s.rat := rfl
@[simp] theorem applyFire_rs (f : Fire) (s : State) : (applyFire f s).rs = fireBank f .rs s.rs := rfl
@[simp] theorem applyFire_lsb (f : Fire) (s : State) : (applyFire f s).lsb = fireBank f .lsb s.lsb := rfl
@[simp] theorem applyFire_rob (f : Fire) (s : State) : (applyFire f s).rob = Bank.put s.rob f.dest (completeRob f (Bank.get s.rob f.dest)) := rfl
@[simp] theorem applyFire_robHead (f : Fire) (s : State) : (applyFire f s).robHead = s.robHead := rfl
@[simp] theorem applyFire_robSize (f : Fire) (s : State) : (applyFire f s).robSize = s.robSize := rfl
@[simp] theorem applyFire_predCtr (f : Fire) (s : State) : (applyFire f s).predCtr = s.predCtr := rfl
@[simp] theorem applyFire_flush (f : Fire) (s : State) : (applyFire f s).flush = s.flush := rfl
@[simp] theorem applyFire_block (f : Fire) (s : State) : (applyFire f s).block = s.block := rfl
@[simp] theorem applyFire_drainBit (f : Fire) (s : State) : (applyFire f s).drainBit = s.drainBit := rfl
@[simp] theorem applyFire_halted (f : Fire) (s : State) : (applyFire f s).halted = s.halted := rfl
@[simp] theorem applyFire_fatal (f : Fire) (s : State) : (applyFire f s).fatal = s.fatal := rfl
@[simp] theorem applyFire_mem (f : Fire) (s : State) : (applyFire f s).mem = s.mem := rfl
@[simp] theorem applyFire_choices (f : Fire) (s : State) : (applyFire f s).choices = s.choices.tail := rfl
@[simp] theorem applyFire_freeCount (f : Fire) (s : State) : (applyFire f s).freeCount = s.freeCount := rfl

/-! ### applyIssue -/

@[simp] theorem applyIssue_params (s n : State) (cdb : Option Cdb) (red : Bool) (p : IssuePlan) (i : Slot) : (applyIssue s n cdb red p i).params = n.params := rfl
@[simp] theorem applyIssue_regs (s n : State) (cdb : Option Cdb) (red : Bool) (p : IssuePlan) (i : Slot) : (applyIssue s n cdb red p i).regs = n.regs := rfl
@[simp] theorem applyIssue_pc (s n : State) (cdb : Option Cdb) (red : Bool) (p : IssuePlan) (i : Slot) : (applyIssue s n cdb red p i).pc = if red then n.pc else p.nextPc := rfl
@[simp] theorem applyIssue_rat (s n : State) (cdb : Option Cdb) (red : Bool) (p : IssuePlan) (i : Slot) : (applyIssue s n cdb red p i).rat = claim n.rat p (tail s) := rfl
@[simp] theorem applyIssue_rs (s n : State) (cdb : Option Cdb) (red : Bool) (p : IssuePlan) (i : Slot) : (applyIssue s n cdb red p i).rs = placeEntry (routeOf p.op) .rs i (issuedEntry s cdb p) n.rs := rfl
@[simp] theorem applyIssue_lsb (s n : State) (cdb : Option Cdb) (red : Bool) (p : IssuePlan) (i : Slot) : (applyIssue s n cdb red p i).lsb = placeEntry (routeOf p.op) .lsb i (issuedEntry s cdb p) n.lsb := rfl
@[simp] theorem applyIssue_rob (s n : State) (cdb : Option Cdb) (red : Bool) (p : IssuePlan) (i : Slot) : (applyIssue s n cdb red p i).rob = Bank.put n.rob (tail s) (issuedRob s p) := rfl
@[simp] theorem applyIssue_robHead (s n : State) (cdb : Option Cdb) (red : Bool) (p : IssuePlan) (i : Slot) : (applyIssue s n cdb red p i).robHead = n.robHead := rfl
@[simp] theorem applyIssue_robSize (s n : State) (cdb : Option Cdb) (red : Bool) (p : IssuePlan) (i : Slot) : (applyIssue s n cdb red p i).robSize = n.robSize + 1 := rfl
@[simp] theorem applyIssue_predCtr (s n : State) (cdb : Option Cdb) (red : Bool) (p : IssuePlan) (i : Slot) : (applyIssue s n cdb red p i).predCtr = n.predCtr := rfl
@[simp] theorem applyIssue_flush (s n : State) (cdb : Option Cdb) (red : Bool) (p : IssuePlan) (i : Slot) : (applyIssue s n cdb red p i).flush = n.flush := rfl
@[simp] theorem applyIssue_block (s n : State) (cdb : Option Cdb) (red : Bool) (p : IssuePlan) (i : Slot) : (applyIssue s n cdb red p i).block = (n.block || p.op == .jalr) := rfl
@[simp] theorem applyIssue_drainBit (s n : State) (cdb : Option Cdb) (red : Bool) (p : IssuePlan) (i : Slot) : (applyIssue s n cdb red p i).drainBit = (n.drainBit || p.halt) := rfl
@[simp] theorem applyIssue_halted (s n : State) (cdb : Option Cdb) (red : Bool) (p : IssuePlan) (i : Slot) : (applyIssue s n cdb red p i).halted = n.halted := rfl
@[simp] theorem applyIssue_fatal (s n : State) (cdb : Option Cdb) (red : Bool) (p : IssuePlan) (i : Slot) : (applyIssue s n cdb red p i).fatal = n.fatal := rfl
@[simp] theorem applyIssue_mem (s n : State) (cdb : Option Cdb) (red : Bool) (p : IssuePlan) (i : Slot) : (applyIssue s n cdb red p i).mem = n.mem := rfl
@[simp] theorem applyIssue_choices (s n : State) (cdb : Option Cdb) (red : Bool) (p : IssuePlan) (i : Slot) : (applyIssue s n cdb red p i).choices = n.choices := rfl
@[simp] theorem applyIssue_freeCount (s n : State) (cdb : Option Cdb) (red : Bool) (p : IssuePlan) (i : Slot) : (applyIssue s n cdb red p i).freeCount = s.freeCount + 4 := rfl

/-! ### withFetchWord -/

@[simp] theorem State.withFetchWord_params (s : State) (nbits w : Nat) : (s.withFetchWord nbits w).params = s.params := rfl
@[simp] theorem State.withFetchWord_regs (s : State) (nbits w : Nat) : (s.withFetchWord nbits w).regs = s.regs := rfl
@[simp] theorem State.withFetchWord_pc (s : State) (nbits w : Nat) : (s.withFetchWord nbits w).pc = s.pc := rfl
@[simp] theorem State.withFetchWord_rat (s : State) (nbits w : Nat) : (s.withFetchWord nbits w).rat = s.rat := rfl
@[simp] theorem State.withFetchWord_rs (s : State) (nbits w : Nat) : (s.withFetchWord nbits w).rs = s.rs := rfl
@[simp] theorem State.withFetchWord_lsb (s : State) (nbits w : Nat) : (s.withFetchWord nbits w).lsb = s.lsb := rfl
@[simp] theorem State.withFetchWord_rob (s : State) (nbits w : Nat) : (s.withFetchWord nbits w).rob = s.rob := rfl
@[simp] theorem State.withFetchWord_robHead (s : State) (nbits w : Nat) : (s.withFetchWord nbits w).robHead = s.robHead := rfl
@[simp] theorem State.withFetchWord_robSize (s : State) (nbits w : Nat) : (s.withFetchWord nbits w).robSize = s.robSize := rfl
@[simp] theorem State.withFetchWord_predCtr (s : State) (nbits w : Nat) : (s.withFetchWord nbits w).predCtr = s.predCtr := rfl
@[simp] theorem State.withFetchWord_flush (s : State) (nbits w : Nat) : (s.withFetchWord nbits w).flush = s.flush := rfl
@[simp] theorem State.withFetchWord_block (s : State) (nbits w : Nat) : (s.withFetchWord nbits w).block = s.block := rfl
@[simp] theorem State.withFetchWord_drainBit (s : State) (nbits w : Nat) : (s.withFetchWord nbits w).drainBit = s.drainBit := rfl
@[simp] theorem State.withFetchWord_halted (s : State) (nbits w : Nat) : (s.withFetchWord nbits w).halted = s.halted := rfl
@[simp] theorem State.withFetchWord_fatal (s : State) (nbits w : Nat) : (s.withFetchWord nbits w).fatal = s.fatal := rfl
@[simp] theorem State.withFetchWord_mem (s : State) (nbits w : Nat) : (s.withFetchWord nbits w).mem = memWrite s.mem s.pc .word (BitVec.ofNat 32 (w % 2 ^ nbits)) := rfl
@[simp] theorem State.withFetchWord_choices (s : State) (nbits w : Nat) : (s.withFetchWord nbits w).choices = s.choices := rfl
@[simp] theorem State.withFetchWord_freeCount (s : State) (nbits w : Nat) : (s.withFetchWord nbits w).freeCount = s.freeCount := rfl

end Sys2Proof.Machine
end

