-- ==== Sys2Proof/Laws/Execute.lean ====
section
/-! SUPPORT. What Execute can do, said once: the eligible set, the selection, the outcome of a fire, and its writes
(`42_execute_cdb.md` R170 to R186). -/

namespace Sys2Proof.Machine

/-! ### The eligible set and the selection -/

@[simp] theorem mem_allPicks (p : Pick) : p ∈ allPicks := by
  obtain ⟨st, i⟩ := p
  cases st <;> simp [allPicks]

theorem mem_eligiblePicks (s : State) (p : Pick) : p ∈ eligiblePicks s ↔ eligible s p.station (entryAt s p) = true := by
  simp [eligiblePicks]

/-- An eligible entry is busy and has no pending tag (R170). -/
theorem eligible_ready {s : State} {st : Station} {e : StationEntry} (h : eligible s st e = true) :
    e.busy = true ∧ e.qj = none ∧ e.qk = none := by
  simp only [eligible, ready, Bool.and_eq_true, Option.isNone_iff_eq_none] at h
  exact ⟨h.1.1.1, h.1.1.2, h.1.2⟩

/-- The oldest pick of a list is one of it, and none of it is older (R175). -/
theorem oldestOf_spec {s : State} {l : List Pick} {p : Pick} (h : oldestOf s l = some p) :
    p ∈ l ∧ ∀ q ∈ l, age s (entryAt s p).dest ≤ age s (entryAt s q).dest := by
  induction l generalizing p with
  | nil => simp [oldestOf] at h
  | cons a l ih =>
    simp only [oldestOf] at h
    cases hl : oldestOf s l with
    | none =>
      rw [hl] at h
      cases h
      cases l with
      | nil => simp
      | cons b l =>
        simp only [oldestOf] at hl
        cases h2 : oldestOf s l <;> simp [h2] at hl
        split at hl <;> simp at hl
    | some q =>
      rw [hl] at h
      obtain ⟨hq, hle⟩ := ih hl
      by_cases hlt : age s (entryAt s q).dest < age s (entryAt s a).dest
      · simp only [hlt, if_true, Option.some.injEq] at h
        subst h
        refine ⟨List.mem_cons_of_mem _ hq, ?_⟩
        intro r hr
        rcases List.mem_cons.1 hr with rfl | hr
        · omega
        · exact hle r hr
      · simp only [hlt, if_false, Option.some.injEq] at h
        subst h
        refine ⟨List.mem_cons_self, ?_⟩
        intro r hr
        rcases List.mem_cons.1 hr with rfl | hr
        · exact Nat.le_refl _
        · have := hle r hr
          omega

theorem oldestOf_none {s : State} {l : List Pick} : oldestOf s l = none ↔ l = [] := by
  cases l with
  | nil => simp [oldestOf]
  | cons a l =>
    simp only [oldestOf]
    cases oldestOf s l with
    | none => simp
    | some q => simp only; split <;> simp

/-- The selected entry is eligible (R175). -/
theorem select_eligible {s : State} {p : Pick} (h : select s = some p) : eligible s p.station (entryAt s p) = true := by
  rw [← mem_eligiblePicks]
  unfold select at h
  split at h
  · exact (oldestOf_spec h).1
  · exact List.mem_of_getElem? h

/-- Nothing is selected exactly when nothing is eligible: "If the eligible set is empty nothing fires" (R175). -/
theorem select_none_iff (s : State) : select s = none ↔ eligiblePicks s = [] := by
  unfold select
  split
  · exact oldestOf_none
  · rename_i c _ _
    rw [List.getElem?_eq_none_iff]
    constructor
    · intro h
      cases hl : eligiblePicks s with
      | nil => rfl
      | cons a l =>
        rw [hl] at h
        have := Nat.mod_lt c (show 0 < (a :: l).length by simp)
        omega
    · intro h
      simp [h]

/-- With `SELECT` at its default the selected entry is the oldest of the eligible ones (R175). -/
theorem select_oldest {s : State} (hc : s.choices = []) {p : Pick} (h : select s = some p) (q : Pick)
    (hq : eligible s q.station (entryAt s q) = true) : age s (entryAt s p).dest ≤ age s (entryAt s q).dest := by
  unfold select at h
  rw [hc] at h
  exact (oldestOf_spec h).2 q ((mem_eligiblePicks s q).2 hq)

/-! ### The outcome of a fire -/

/-- Only INVALID is an unrecognised opcode (R186). -/
theorem fireEntry_unrecognised {s : State} {e : StationEntry} (h : fireEntry s e = .ok .unrecognised) : e.op = .invalid := by
  unfold fireEntry at h
  split at h <;>
    first
      | assumption
      | (simp [alu, Computed.ofAlu, fireStore, fireJalr] at h)
      | (simp only [fireLb, fireLh, fireLw, fireLbu, fireLhu, readPort] at h; split at h <;> simp [Except.map] at h)

/-- What Execute answers, when it is not refused (R176). -/
theorem execute_cases {s : State} {ex : ExecResult} (h : execute s = .ok ex) :
    (ex = .idle ∧ select s = none) ∨
    (ex = .fatal ∧ ∃ p, select s = some p ∧ (entryAt s p).op = .invalid) ∨
    (∃ p v t, select s = some p ∧ fireEntry s (entryAt s p) = .ok (.result v t) ∧
      ex = .fired { pick := p, dest := (entryAt s p).dest, value := v, taddr := t }) := by
  unfold execute at h
  cases hs : select s with
  | none => rw [hs] at h; simp only [Except.ok.injEq] at h; exact .inl ⟨h.symm, rfl⟩
  | some p =>
    rw [hs] at h
    simp only at h
    cases hf : fireEntry s (entryAt s p) with
    | error r => rw [hf] at h; simp at h
    | ok c =>
      rw [hf] at h
      cases c with
      | unrecognised =>
        simp only [Except.ok.injEq] at h
        exact .inr (.inl ⟨h.symm, p, rfl, fireEntry_unrecognised hf⟩)
      | result v t =>
        simp only [Except.ok.injEq] at h
        exact .inr (.inr ⟨p, v, t, rfl, hf, h.symm⟩)

/-! ### The writes of a fire -/

/-- Every slot after a fire: the fired one is freed, its other fields kept (R178); every other one sees the broadcast (R180). -/
theorem entryAt_applyFire (f : Fire) (s : State) (p : Pick) :
    entryAt (applyFire f s) p =
      if p = f.pick then { entryAt s p with busy := false } else wakeEntry f.dest f.value (entryAt s p) := by
  obtain ⟨st, i⟩ := p
  obtain ⟨⟨fst, fi⟩, d, v, t⟩ := f
  by_cases h : i = fi
  · subst h
    cases st <;> cases fst <;> simp [entryAt, stationBank, fireBank]
  · have h' : ¬ fi = i := fun e => h e.symm
    cases st <;> cases fst <;> simp [entryAt, stationBank, fireBank, Bank.get_put, h, h']

/-- Every ROB entry after a fire: only the fired one changes (R177). -/
theorem robAt_applyFire (f : Fire) (s : State) (k : RobId) :
    robAt (applyFire f s) k = if k = f.dest then completeRob f (robAt s k) else robAt s k := by
  by_cases h : k = f.dest
  · subst h; simp [robAt]
  · simp [robAt, Bank.get_put, h, Ne.symm h]

/-- The registers are not written by Execute (R73, R303). -/
@[simp] theorem applyExecute_regs (s : State) (ex : ExecResult) : (applyExecute s ex).regs = s.regs := by cases ex <;> rfl
/-- Memory is not written by Execute (R73, R303). -/
@[simp] theorem applyExecute_mem (s : State) (ex : ExecResult) : (applyExecute s ex).mem = s.mem := by cases ex <;> rfl
@[simp] theorem applyExecute_pc (s : State) (ex : ExecResult) : (applyExecute s ex).pc = s.pc := by cases ex <;> rfl
@[simp] theorem applyExecute_rat (s : State) (ex : ExecResult) : (applyExecute s ex).rat = s.rat := by cases ex <;> rfl
@[simp] theorem applyExecute_robHead (s : State) (ex : ExecResult) : (applyExecute s ex).robHead = s.robHead := by cases ex <;> rfl
@[simp] theorem applyExecute_robSize (s : State) (ex : ExecResult) : (applyExecute s ex).robSize = s.robSize := by cases ex <;> rfl
@[simp] theorem applyExecute_predCtr (s : State) (ex : ExecResult) : (applyExecute s ex).predCtr = s.predCtr := by cases ex <;> rfl
@[simp] theorem applyExecute_flush (s : State) (ex : ExecResult) : (applyExecute s ex).flush = s.flush := by cases ex <;> rfl
@[simp] theorem applyExecute_block (s : State) (ex : ExecResult) : (applyExecute s ex).block = s.block := by cases ex <;> rfl
@[simp] theorem applyExecute_drainBit (s : State) (ex : ExecResult) : (applyExecute s ex).drainBit = s.drainBit := by cases ex <;> rfl
@[simp] theorem applyExecute_halted (s : State) (ex : ExecResult) : (applyExecute s ex).halted = s.halted := by cases ex <;> rfl
@[simp] theorem applyExecute_params (s : State) (ex : ExecResult) : (applyExecute s ex).params = s.params := by cases ex <;> rfl
@[simp] theorem applyExecute_freeCount (s : State) (ex : ExecResult) : (applyExecute s ex).freeCount = s.freeCount := by
  cases ex <;> rfl
/-- Execute raises `fatal` exactly when it selected an INVALID entry (R186). -/
@[simp] theorem applyExecute_fatal (s : State) (ex : ExecResult) :
    (applyExecute s ex).fatal = (s.fatal || decide (ex = .fatal)) := by cases ex <;> simp [applyExecute]

end Sys2Proof.Machine
end

