-- ==== Sys2Proof/Laws/Commit.lean ====
section
/-! SUPPORT. What Commit can do, said once: the outcome, and the writes of each class (`48_commit.md` R290 to R301). -/

namespace Sys2Proof.Machine

/-- What Commit answers, when it is not refused: nothing (R290, R302), a misprediction of the head (R295), or the head's retirement
(R291, R292). -/
theorem commit_cases {s : State} {cm : CommitResult} (h : commit s = .ok cm) :
    (cm = .idle ∧ (s.robSize = 0 ∨ (robAt s s.robHead).busy = true ∨ (robAt s s.robHead).commitClass = .never)) ∨
    (s.robSize ≠ 0 ∧ (robAt s s.robHead).busy = false ∧
      ((cm = .mispredicted (robAt s s.robHead) ∧ (robAt s s.robHead).commitClass = .branch ∧
          actualTaken (robAt s s.robHead) ≠ (robAt s s.robHead).pred) ∨
        (∃ c, cm = .retired c (robAt s s.robHead) ∧ (robAt s s.robHead).commitClass = c ∧ c ≠ .never ∧
          (c = .branch → actualTaken (robAt s s.robHead) = (robAt s s.robHead).pred) ∧
          (c = .store → inMemory s.params (robAt s s.robHead).addr (robAt s s.robHead).op.width = true)))) := by
  unfold commit at h
  by_cases hz : s.robSize = 0
  · simp only [hz, if_true, Except.ok.injEq] at h
    exact .inl ⟨h.symm, .inl hz⟩
  · simp only [hz, if_false] at h
    cases hb : (robAt s s.robHead).busy with
    | true =>
      simp only [hb, if_true, Except.ok.injEq] at h
      exact .inl ⟨h.symm, .inr (.inl rfl)⟩
    | false =>
      simp only [hb, Bool.false_eq_true, if_false] at h
      cases hc : (robAt s s.robHead).commitClass <;> simp only [hc] at h
      case never =>
        simp only [Except.ok.injEq] at h
        exact .inl ⟨h.symm, .inr (.inr rfl)⟩
      case branch =>
        split at h <;> rename_i hp <;> simp only [Except.ok.injEq] at h <;> refine .inr ⟨hz, rfl, ?_⟩
        · exact .inr ⟨_, h.symm, rfl, by simp, fun _ => hp, by simp⟩
        · exact .inl ⟨h.symm, rfl, hp⟩
      case store =>
        split at h <;> rename_i hp <;> simp only [Except.ok.injEq, reduceCtorEq] at h
        exact .inr ⟨hz, rfl, .inr ⟨_, h.symm, rfl, by simp, by simp, fun _ => hp⟩⟩
      all_goals
        simp only [Except.ok.injEq] at h
        exact .inr ⟨hz, rfl, .inr ⟨_, h.symm, rfl, by simp, by simp, by simp⟩⟩

/-- One alias after the commit of ROB id `h` with destination `r` (R300). -/
theorem get_clearClaim (rat : Bank RatEntry) (r : Reg) (h : RobId) (x : Reg) :
    Bank.get (clearClaim rat r h) x =
      if r ≠ 0 ∧ (Bank.get rat r).busy = true ∧ (Bank.get rat r).id = h ∧ r = x then
        { Bank.get rat x with busy := false } else Bank.get rat x := by
  unfold clearClaim
  by_cases hc : r ≠ 0 ∧ (Bank.get rat r).busy = true ∧ (Bank.get rat r).id = h
  · rw [if_pos hc, Bank.get_put]
    by_cases hx : r = x
    · subst hx; rw [if_pos rfl, if_pos ⟨hc.1, hc.2.1, hc.2.2, rfl⟩]
    · simp [hx]
  · rw [if_neg hc]
    have : ¬ (r ≠ 0 ∧ (Bank.get rat r).busy = true ∧ (Bank.get rat r).id = h ∧ r = x) := fun h4 => hc ⟨h4.1, h4.2.1, h4.2.2.1⟩
    rw [if_neg this]

/-! ### What a retirement leaves alone, whatever its class -/

@[simp] theorem commitEffect_params (s : State) (h : RobId) (c : CommitClass) (e : RobEntry) :
    (commitEffect s h c e).params = s.params := by cases c <;> rfl
@[simp] theorem applyCommit_params (h : RobId) (s : State) (cm : CommitResult) : (applyCommit h s cm).params = s.params := by
  cases cm <;> simp [applyCommit]
@[simp] theorem commitEffect_rs (s : State) (h : RobId) (c : CommitClass) (e : RobEntry) :
    (commitEffect s h c e).rs = s.rs := by cases c <;> rfl
@[simp] theorem applyCommit_rs (h : RobId) (s : State) (cm : CommitResult) : (applyCommit h s cm).rs = s.rs := by
  cases cm <;> simp [applyCommit]
@[simp] theorem commitEffect_lsb (s : State) (h : RobId) (c : CommitClass) (e : RobEntry) :
    (commitEffect s h c e).lsb = s.lsb := by cases c <;> rfl
@[simp] theorem applyCommit_lsb (h : RobId) (s : State) (cm : CommitResult) : (applyCommit h s cm).lsb = s.lsb := by
  cases cm <;> simp [applyCommit]
@[simp] theorem commitEffect_rob (s : State) (h : RobId) (c : CommitClass) (e : RobEntry) :
    (commitEffect s h c e).rob = s.rob := by cases c <;> rfl
@[simp] theorem applyCommit_rob (h : RobId) (s : State) (cm : CommitResult) : (applyCommit h s cm).rob = s.rob := by
  cases cm <;> simp [applyCommit]
@[simp] theorem commitEffect_flush (s : State) (h : RobId) (c : CommitClass) (e : RobEntry) :
    (commitEffect s h c e).flush = s.flush := by cases c <;> rfl
@[simp] theorem applyCommit_flush (h : RobId) (s : State) (cm : CommitResult) : (applyCommit h s cm).flush = s.flush := by
  cases cm <;> simp [applyCommit]
@[simp] theorem commitEffect_fatal (s : State) (h : RobId) (c : CommitClass) (e : RobEntry) :
    (commitEffect s h c e).fatal = s.fatal := by cases c <;> rfl
@[simp] theorem applyCommit_fatal (h : RobId) (s : State) (cm : CommitResult) : (applyCommit h s cm).fatal = s.fatal := by
  cases cm <;> simp [applyCommit]
@[simp] theorem commitEffect_choices (s : State) (h : RobId) (c : CommitClass) (e : RobEntry) :
    (commitEffect s h c e).choices = s.choices := by cases c <;> rfl
@[simp] theorem applyCommit_choices (h : RobId) (s : State) (cm : CommitResult) : (applyCommit h s cm).choices = s.choices := by
  cases cm <;> simp [applyCommit]
@[simp] theorem commitEffect_freeCount (s : State) (h : RobId) (c : CommitClass) (e : RobEntry) :
    (commitEffect s h c e).freeCount = s.freeCount := by cases c <;> rfl
@[simp] theorem applyCommit_freeCount (h : RobId) (s : State) (cm : CommitResult) : (applyCommit h s cm).freeCount = s.freeCount := by
  cases cm <;> simp [applyCommit]
@[simp] theorem commitEffect_robHead (s : State) (h : RobId) (c : CommitClass) (e : RobEntry) :
    (commitEffect s h c e).robHead = s.robHead := by cases c <;> rfl
@[simp] theorem commitEffect_robSize (s : State) (h : RobId) (c : CommitClass) (e : RobEntry) :
    (commitEffect s h c e).robSize = s.robSize := by cases c <;> rfl

@[simp] theorem commitEffect_drainBit (s : State) (h : RobId) (c : CommitClass) (e : RobEntry) :
    (commitEffect s h c e).drainBit = s.drainBit := by cases c <;> rfl
@[simp] theorem applyCommit_drainBit (h : RobId) (s : State) (cm : CommitResult) : (applyCommit h s cm).drainBit = s.drainBit := by
  cases cm <;> simp [applyCommit]

/-! ### What a retirement writes, field by field -/

/-- The registers: only a register-writing operation or a JALR writes one, its `rd`, and never register 0 (R293, R299, R303). -/
theorem commitEffect_regs (s : State) (h : RobId) (c : CommitClass) (e : RobEntry) :
    (commitEffect s h c e).regs =
      if (c = .register ∨ c = .jumpRegister) ∧ e.rd ≠ 0 then Bank.put s.regs e.rd e.value else s.regs := by
  cases c <;> simp [commitEffect]

/-- Memory: only a store writes it (R73, R298, R303). -/
theorem commitEffect_mem (s : State) (h : RobId) (c : CommitClass) (e : RobEntry) :
    (commitEffect s h c e).mem = if c = .store then memWrite s.mem e.addr e.op.width e.value else s.mem := by
  cases c <;> simp [commitEffect]

/-- The pc: only the commit of a JALR writes it (R293). -/
theorem commitEffect_pc (s : State) (h : RobId) (c : CommitClass) (e : RobEntry) :
    (commitEffect s h c e).pc = if c = .jumpRegister then e.addr else s.pc := by
  cases c <;> simp [commitEffect]

/-- The block flag: only the commit of a JALR clears it (R293). -/
theorem commitEffect_block (s : State) (h : RobId) (c : CommitClass) (e : RobEntry) :
    (commitEffect s h c e).block = if c = .jumpRegister then false else s.block := by
  cases c <;> simp [commitEffect]

/-- The halted flag: only the commit of the sentinel sets it (R301). -/
theorem commitEffect_halted (s : State) (h : RobId) (c : CommitClass) (e : RobEntry) :
    (commitEffect s h c e).halted = if c = .halt then true else s.halted := by
  cases c <;> simp [commitEffect]

/-- The predictor counter: only the commit of a branch writes it (R314). -/
theorem commitEffect_predCtr (s : State) (h : RobId) (c : CommitClass) (e : RobEntry) :
    (commitEffect s h c e).predCtr = if c = .branch then updateCtr e.pred (actualTaken e) s.predCtr else s.predCtr := by
  cases c <;> simp [commitEffect]

/-- The Alias Table: a register-writing operation, a JALR and the sentinel clear their alias (R293, R300, R301). -/
theorem commitEffect_rat (s : State) (h : RobId) (c : CommitClass) (e : RobEntry) :
    (commitEffect s h c e).rat =
      if c = .register ∨ c = .jumpRegister ∨ c = .halt then clearClaim s.rat e.rd h else s.rat := by
  cases c <;> simp [commitEffect]

end Sys2Proof.Machine
end

