-- ==== Sys2Proof/Laws/Consistent.lean ====
section
/-! SUPPORT. A check by evaluation that a given state is consistent (R41, R42), and the proof that it suffices. The witnesses of the
tests use it on small concrete states. -/

namespace Sys2Proof.Safety

open Sys2Proof.Machine

/-- `Promises` by evaluation. -/
def promisesB (s : State) (r : Reg) (k : RobId) : Bool := occupied s k && (robAt s k).op.writesReg && (robAt s k).rd == r

/-- `YoungestPromise` by evaluation. -/
def youngestB (s : State) (r : Reg) (k : RobId) : Bool :=
  promisesB s r k && indices.all fun j => !promisesB s r j || decide (age s j ≤ age s k)

/-- A pending tag is as R42 (b) says. -/
def tagB (s : State) (e : StationEntry) : Option RobId → Bool
  | none => true
  | some q => older s q e.dest && (robAt s q).busy && (robAt s q).op.writesReg && (robAt s q).rd != 0

/-- The check of one slot: R42 (a) and (b). -/
def slotB (s : State) (p : Pick) : Bool :=
  !(entryAt s p).busy ||
    (occupied s (entryAt s p).dest && (robAt s (entryAt s p).dest).busy &&
      decide ((robAt s (entryAt s p).dest).op = (entryAt s p).op) && decide (p.station = routeOf (entryAt s p).op) &&
      (allPicks.all fun q => !(entryAt s q).busy || decide ((entryAt s p).dest ≠ (entryAt s q).dest) || decide (p = q)) &&
      tagB s (entryAt s p) (entryAt s p).qj && tagB s (entryAt s p) (entryAt s p).qk)

/-- The check of one ROB id: R42 (a), and what stands beside a JALR or a sentinel. -/
def robB (s : State) (k : RobId) : Bool :=
  !occupied s k ||
    ((!(robAt s k).busy || allPicks.any fun p => (entryAt s p).busy && decide ((entryAt s p).dest = k)) &&
      (robAt s k).halt == decide ((robAt s k).op = .halt) &&
      (decide ((robAt s k).op ≠ .jalr) || (s.block && decide (k = youngest s))) &&
      (!(robAt s k).halt || (s.draining && decide (k = youngest s))))

/-- The check of one register other than 0: R42 (c). -/
def aliasB (s : State) (r : Reg) : Bool :=
  decide (r = 0) ||
    ((indices.all fun k => ((Bank.get s.rat r).busy && decide ((Bank.get s.rat r).id = k)) == youngestB s r k) &&
      (!(Bank.get s.rat r).busy) == indices.all fun k => !promisesB s r k)

/-- The whole check. -/
def consistentB (s : State) : Bool :=
  decide (s.robSize.toNat ≤ 32) && !(Bank.get s.rat 0).busy && allPicks.all (slotB s) && indices.all (robB s) &&
    indices.all (aliasB s) && (!s.block || (s.robSize != 0 && decide ((robAt s (youngest s)).op = .jalr))) &&
    (!s.draining || (s.robSize != 0 && (robAt s (youngest s)).halt)) &&
    (!s.flush || (s.robSize == 0 && !s.block && !s.draining))

theorem promisesB_iff (s : State) (r : Reg) (k : RobId) : promisesB s r k = true ↔ Promises s r k := by
  simp [promisesB, Promises, and_assoc]

theorem youngestB_iff (s : State) (r : Reg) (k : RobId) : youngestB s r k = true ↔ YoungestPromise s r k := by
  simp only [youngestB, YoungestPromise, Bool.and_eq_true, promisesB_iff, List.all_eq_true, mem_indices, Bool.or_eq_true,
    Bool.not_eq_true', decide_eq_true_eq, ← Bool.not_eq_true, true_imp_iff]
  simp only [imp_iff_not_or]

/-- A state that passes the check is consistent. -/
theorem consistent_of_check {s : State} (h : consistentB s = true) : Consistent s := by
  simp only [consistentB, Bool.and_eq_true, List.all_eq_true, mem_allPicks, mem_indices, true_imp_iff, decide_eq_true_eq] at h
  obtain ⟨⟨⟨⟨⟨⟨⟨h1, h2⟩, h3⟩, h4⟩, h5⟩, h6⟩, h7⟩, h8⟩ := h
  have slot := fun p (hp : (entryAt s p).busy = true) => by
    have := h3 p
    simp only [slotB, hp, Bool.not_true, Bool.false_or, Bool.and_eq_true, List.all_eq_true, mem_allPicks, true_imp_iff,
      decide_eq_true_eq, Bool.or_eq_true, Bool.not_eq_true'] at this
    exact this
  have rob := fun k (hk : occupied s k = true) => by
    have := h4 k
    simp only [robB, hk, Bool.not_true, Bool.false_or, Bool.and_eq_true, Bool.or_eq_true, Bool.not_eq_true', List.any_eq_true,
      mem_allPicks, true_and, decide_eq_true_eq, beq_iff_eq] at this
    exact this
  have ali := fun (r : Reg) (hr : r ≠ 0) => by
    have := h5 r
    simp only [aliasB, hr, decide_false, Bool.false_or, Bool.and_eq_true, List.all_eq_true, mem_indices, true_imp_iff,
      beq_iff_eq] at this
    exact this
  refine
    { size_le := h1, alias_zero := by simpa using h2, entry_live := ?_, entry_unique := ?_, rob_live := ?_, tag_live := ?_,
      alias_youngest := ?_, alias_resolved := ?_, halt_mark := ?_, block_jalr := ?_, draining_halt := ?_, jalr_youngest := ?_,
      halt_youngest := ?_, flush_empty := ?_ }
  · intro p hp
    obtain ⟨⟨⟨⟨⟨⟨a, b⟩, c⟩, d⟩, _⟩, _⟩, _⟩ := slot p hp
    exact ⟨a, b, c, d⟩
  · intro p q hp hq e
    obtain ⟨⟨⟨_, u⟩, _⟩, _⟩ := slot p hp
    rcases u q with (h | h) | h
    · simp [hq] at h
    · exact absurd e h
    · exact h
  · intro k hk hb
    obtain ⟨⟨⟨a, _⟩, _⟩, _⟩ := rob k hk
    rcases a with a | a
    · simp [hb] at a
    · exact a
  · intro p q hp hq
    obtain ⟨⟨_, tj⟩, tk⟩ := slot p hp
    rcases hq with hq | hq
    · rw [hq] at tj; simpa [tagB, and_assoc] using tj
    · rw [hq] at tk; simpa [tagB, and_assoc] using tk
  · intro r hr k
    have := (ali r hr).1 k
    rw [← youngestB_iff, ← this]
    simp
  · intro r hr
    have := (ali r hr).2
    have e : ((!(Bank.get s.rat r).busy) = true) ↔ (Bank.get s.rat r).busy = false := by simp
    rw [← e, this]
    simp [← promisesB_iff]
  · intro k hk
    obtain ⟨⟨⟨_, a⟩, _⟩, _⟩ := rob k hk
    rw [a]; simp
  · intro hb
    simpa [hb] using h6
  · intro hd
    simpa [hd] using h7
  · intro k hk ho
    obtain ⟨⟨_, a⟩, _⟩ := rob k hk
    simpa [ho] using a
  · intro k hk ho
    obtain ⟨_, a⟩ := rob k hk
    simpa [ho] using a
  · intro hf
    simpa [hf, and_assoc] using h8

end Sys2Proof.Safety
end

