-- ==== Sys2Proof/Laws/Memory.lean ====
section
/-! SUPPORT. The laws of memory: a read after a write, the frame of a write, and the canonical form, which every memory operation
keeps (`20_memory.md` R61, R62). -/

namespace Sys2Proof.Machine

theorem Mem.wfFrom_mono {m : Mem} {lo lo' : Nat} (h : lo' ≤ lo) (hm : Mem.wfFrom lo m = true) : Mem.wfFrom lo' m = true := by
  cases m with
  | nil => rfl
  | cons p m =>
    obtain ⟨c, x⟩ := p
    simp only [Mem.wfFrom, Bool.and_eq_true, decide_eq_true_eq] at hm ⊢
    exact ⟨⟨⟨by omega, hm.1.1.2⟩, hm.1.2⟩, hm.2⟩

/-- An address below every listed one reads as an unlisted address does. -/
theorem Mem.read_below {m : Mem} {lo a : Nat} (hm : Mem.wfFrom lo m = true) (h : a < lo) : Mem.read m a = Mem.unlisted := by
  induction m generalizing lo with
  | nil => rfl
  | cons p m ih =>
    obtain ⟨c, x⟩ := p
    simp only [Mem.wfFrom, Bool.and_eq_true, decide_eq_true_eq] at hm
    have hc : a ≠ c := by omega
    simp only [Mem.read, hc, if_false]
    exact ih hm.2 (by omega)

theorem Mem.read_write_from {m : Mem} {lo : Nat} (hm : Mem.wfFrom lo m = true) (a a' : Nat) (b : Byte) :
    Mem.read (Mem.write m a b) a' = if a' = a then b else Mem.read m a' := by
  induction m generalizing lo with
  | nil =>
    by_cases hb : b = Mem.unlisted
    · simp [Mem.write, Mem.read, hb]
    · simp [Mem.write, Mem.read, hb]
  | cons p m ih =>
    obtain ⟨c, x⟩ := p
    have hm' := hm
    simp only [Mem.wfFrom, Bool.and_eq_true, decide_eq_true_eq] at hm
    simp only [Mem.write]
    by_cases h1 : a < c
    · simp only [h1, if_true]
      by_cases hb : b = Mem.unlisted
      · simp only [hb, if_true]
        by_cases ha : a' = a
        · subst ha
          rw [if_pos rfl]
          exact Mem.read_below (lo := c) (by simp [Mem.wfFrom, hm.1.1.2, hm.2]; simpa using hm.1.2) h1
        · simp [ha]
      · simp only [hb, if_false, Mem.read]
    · simp only [h1, if_false]
      by_cases h2 : a = c
      · subst h2
        simp only [if_true]
        by_cases hb : b = Mem.unlisted
        · simp only [hb, if_true, Mem.read]
          by_cases ha : a' = a
          · subst ha
            rw [if_pos rfl]
            exact Mem.read_below hm.2 (by omega)
          · simp [ha]
        · simp only [hb, if_false, Mem.read]
          by_cases ha : a' = a <;> simp [ha]
      · simp only [h2, if_false, Mem.read]
        by_cases hc : a' = c
        · subst hc
          simp [Ne.symm h2]
        · simp only [hc, if_false]
          exact ih hm.2

theorem Mem.write_wfFrom {m : Mem} {lo : Nat} (hm : Mem.wfFrom lo m = true) {a : Nat} (b : Byte) (hlo : lo ≤ a)
    (ha : a < 4294967296) : Mem.wfFrom lo (Mem.write m a b) = true := by
  induction m generalizing lo with
  | nil =>
    by_cases hb : b = Mem.unlisted
    · simp [Mem.write, hb, Mem.wfFrom]
    · simp [Mem.write, hb, Mem.wfFrom, hlo, ha]
  | cons p m ih =>
    obtain ⟨c, x⟩ := p
    have hm' := hm
    simp only [Mem.wfFrom, Bool.and_eq_true, decide_eq_true_eq] at hm
    obtain ⟨⟨⟨h1, h2⟩, h3⟩, h4⟩ := hm
    simp only [Mem.write]
    by_cases k1 : a < c
    · simp only [k1, if_true]
      by_cases hb : b = Mem.unlisted
      · simp only [hb, if_true]; exact hm'
      · simp only [hb, if_false, Mem.wfFrom, Bool.and_eq_true, decide_eq_true_eq]
        exact ⟨⟨⟨hlo, ha⟩, by simpa using hb⟩, ⟨⟨by omega, h2⟩, h3⟩, h4⟩
    · simp only [k1, if_false]
      by_cases k2 : a = c
      · subst k2
        simp only [if_true]
        by_cases hb : b = Mem.unlisted
        · simp only [hb, if_true]; exact Mem.wfFrom_mono (by omega) h4
        · simp only [hb, if_false, Mem.wfFrom, Bool.and_eq_true, decide_eq_true_eq]
          exact ⟨⟨⟨hlo, ha⟩, by simpa using hb⟩, h4⟩
      · simp only [k2, if_false, Mem.wfFrom, Bool.and_eq_true, decide_eq_true_eq]
        exact ⟨⟨⟨h1, h2⟩, h3⟩, ih h4 (by omega)⟩

/-- One byte written: that byte reads as written, every other byte as before. -/
theorem memByte_putByte {m : Mem} (hm : m.wf = true) (a a' : Word) (b : Byte) :
    memByte (putByte m a b) a' = if a' = a then b else memByte m a' := by
  simp only [memByte, putByte, Mem.read_write_from hm]
  by_cases h : a' = a
  · simp [h]
  · have : a'.toNat ≠ a.toNat := fun e => h (BitVec.eq_of_toNat_eq e)
    simp [h, this]

/-- One byte written keeps the canonical form. -/
theorem putByte_wf {m : Mem} (hm : m.wf = true) (a : Word) (b : Byte) : (putByte m a b).wf = true :=
  Mem.write_wfFrom hm b (Nat.zero_le _) a.isLt

/-- `MemWrite` of four bytes, with the canonical form of what is written so far at hand. -/
theorem memWrite_word_wf {m : Mem} (hm : m.wf = true) (a : Word) (v : Word) :
    (putByte (putByte (putByte m a (v.extractLsb' 0 8)) (a + 1) (v.extractLsb' 8 8)) (a + 2) (v.extractLsb' 16 8)).wf = true :=
  putByte_wf (putByte_wf (putByte_wf hm _ _) _ _) _ _

/-- `MemWrite` keeps the canonical form. -/
theorem memWrite_wf {m : Mem} (hm : m.wf = true) (a : Word) (n : Width) (v : Word) : (memWrite m a n v).wf = true := by
  cases n with
  | byte => exact putByte_wf hm _ _
  | half => exact putByte_wf (putByte_wf hm _ _) _ _
  | word => exact putByte_wf (memWrite_word_wf hm a v) _ _

/-- What one byte reads as after `MemWrite`, for each width (R62). -/
theorem memByte_memWrite_byte {m : Mem} (hm : m.wf = true) (a v a' : Word) :
    memByte (memWrite m a .byte v) a' = if a' = a then v.extractLsb' 0 8 else memByte m a' :=
  memByte_putByte hm _ _ _

theorem memByte_memWrite_half {m : Mem} (hm : m.wf = true) (a v a' : Word) :
    memByte (memWrite m a .half v) a' =
      if a' = a + 1 then v.extractLsb' 8 8 else if a' = a then v.extractLsb' 0 8 else memByte m a' := by
  rw [memWrite, memByte_putByte (putByte_wf hm _ _), memByte_putByte hm]

theorem memByte_memWrite_word {m : Mem} (hm : m.wf = true) (a v a' : Word) :
    memByte (memWrite m a .word v) a' =
      if a' = a + 3 then v.extractLsb' 24 8
      else if a' = a + 2 then v.extractLsb' 16 8
      else if a' = a + 1 then v.extractLsb' 8 8
      else if a' = a then v.extractLsb' 0 8 else memByte m a' := by
  rw [memWrite, memByte_putByte (memWrite_word_wf hm a v), memByte_putByte (putByte_wf (putByte_wf hm _ _) _ _),
    memByte_putByte (putByte_wf hm _ _), memByte_putByte hm]

/-- Membership in an access, byte by byte (R173). -/
theorem inAccess_iff (base : Word) (n : Width) (a : Word) :
    inAccess base n a = true ↔ ∃ i, i < n.bytes ∧ base + BitVec.ofNat 32 i = a := by
  simp [inAccess]

theorem inAccess_byte (base a : Word) : inAccess base .byte a = decide (a = base) := by
  rw [Bool.eq_iff_iff, inAccess_iff]
  simp only [Width.bytes, decide_eq_true_eq]
  constructor
  · rintro ⟨i, hi, rfl⟩
    have : i = 0 := by omega
    subst this; simp
  · rintro rfl
    exact ⟨0, by omega, by simp⟩

theorem inAccess_half (base a : Word) : inAccess base .half a = (decide (a = base) || decide (a = base + 1)) := by
  rw [Bool.eq_iff_iff, inAccess_iff]
  simp only [Width.bytes, Bool.or_eq_true, decide_eq_true_eq]
  constructor
  · rintro ⟨i, hi, rfl⟩
    obtain rfl | rfl : i = 0 ∨ i = 1 := by omega
    · simp
    · exact .inr rfl
  · rintro (rfl | rfl)
    · exact ⟨0, by omega, by simp⟩
    · exact ⟨1, by omega, rfl⟩

theorem inAccess_word (base a : Word) :
    inAccess base .word a = (decide (a = base) || decide (a = base + 1) || decide (a = base + 2) || decide (a = base + 3)) := by
  rw [Bool.eq_iff_iff, inAccess_iff]
  simp only [Width.bytes, Bool.or_eq_true, decide_eq_true_eq]
  constructor
  · rintro ⟨i, hi, rfl⟩
    obtain rfl | rfl | rfl | rfl : i = 0 ∨ i = 1 ∨ i = 2 ∨ i = 3 := by omega
    · simp
    · exact .inl (.inl (.inr rfl))
    · exact .inl (.inr rfl)
    · exact .inr rfl
  · rintro (((rfl | rfl) | rfl) | rfl)
    · exact ⟨0, by omega, by simp⟩
    · exact ⟨1, by omega, rfl⟩
    · exact ⟨2, by omega, rfl⟩
    · exact ⟨3, by omega, rfl⟩

/-- `MemWrite` "changes no other byte" (R62). -/
theorem memByte_memWrite_outside {m : Mem} (hm : m.wf = true) (base : Word) (n : Width) (v a : Word)
    (h : inAccess base n a = false) : memByte (memWrite m base n v) a = memByte m a := by
  cases n with
  | byte =>
    rw [inAccess_byte] at h
    rw [memByte_memWrite_byte hm, if_neg (by simpa using h)]
  | half =>
    rw [inAccess_half] at h
    simp only [Bool.or_eq_false_iff, decide_eq_false_iff_not] at h
    rw [memByte_memWrite_half hm, if_neg h.2, if_neg h.1]
  | word =>
    rw [inAccess_word] at h
    simp only [Bool.or_eq_false_iff, decide_eq_false_iff_not] at h
    obtain ⟨⟨⟨h0, h1⟩, h2⟩, h3⟩ := h
    rw [memByte_memWrite_word hm, if_neg h3, if_neg h2, if_neg h1, if_neg h0]

/-- Two offsets below 4 from one base are two addresses. -/
theorem offset_ne (a : Word) (i j : Nat) (hi : i < 4) (hj : j < 4) (h : i ≠ j) :
    a + BitVec.ofNat 32 i ≠ a + BitVec.ofNat 32 j := by
  intro e
  have := congrArg BitVec.toNat (add_left_cancel e)
  simp only [BitVec.toNat_ofNat] at this
  omega

/-- With `MEM_BYTES` = 2^32 "every 32-bit address names a byte" (R60). -/
theorem inMemory_full {p : Params} (h : p.memBytes = 4294967296) (a : Word) (n : Width) : inMemory p a n = true := by
  simp only [inMemory, List.all_eq_true, decide_eq_true_eq, h]
  intro i _
  exact (a + BitVec.ofNat 32 i).isLt

end Sys2Proof.Machine
end

