-- ==== Sys2Proof/Laws/Cycle.lean ====
section
/-! SUPPORT. What Issue and a whole cycle can do, said once; what `step` adds around `exec` (`41_decode_issue.md` R143 to R159,
`40_cycle_fetch.md` R124 to R130). -/

namespace Sys2Proof.Machine

/-! ### Issue -/

/-- The slot Issue takes is free (R145). -/
theorem freeSlot_free {v : Bank StationEntry} {i : Slot} (h : freeSlot v = some i) : (Bank.get v i).busy = false := by
  have := List.find?_some h
  simpa using this

/-- There is no free slot exactly when every entry is busy (R143). -/
theorem freeSlot_none_iff (v : Bank StationEntry) : freeSlot v = none ↔ ∀ i, (Bank.get v i).busy = true := by
  simp [freeSlot]

/-- What Issue does: nothing is handed over, or it stalls and writes nothing (R143), or it issues into a free slot with the ROB not
full (R144, R145). -/
theorem issue_cases (s n : State) (cdb : Option Cdb) (red : Bool) (h : Option IssuePlan) :
    (h = none ∧ issue s n cdb red h = n) ∨
    (∃ p, h = some p ∧ stalls s p.op = true ∧ issue s n cdb red h = n) ∨
    (∃ p i, h = some p ∧ stalls s p.op = false ∧ robFull s = false ∧ freeSlot (stationBank s (routeOf p.op)) = some i ∧
      issue s n cdb red h = applyIssue s n cdb red p i) := by
  cases h with
  | none => exact .inl ⟨rfl, rfl⟩
  | some p =>
    cases hs : stalls s p.op with
    | true => exact .inr (.inl ⟨p, rfl, hs, by simp [issue, hs]⟩)
    | false =>
      have hs' := hs
      simp only [stalls, Bool.or_eq_false_iff, Option.isNone_eq_false_iff] at hs
      obtain ⟨i, hi⟩ := Option.isSome_iff_exists.1 hs.2
      exact .inr (.inr ⟨p, i, rfl, hs', hs.1, hi, by simp [issue, hs', hi]⟩)

/-- Issue writes neither a register nor memory (R303). -/
@[simp] theorem issue_regs (s n : State) (cdb : Option Cdb) (red : Bool) (h : Option IssuePlan) :
    (issue s n cdb red h).regs = n.regs := by
  rcases issue_cases s n cdb red h with ⟨_, e⟩ | ⟨_, _, _, e⟩ | ⟨_, _, _, _, _, _, e⟩ <;> simp [e]

@[simp] theorem issue_mem (s n : State) (cdb : Option Cdb) (red : Bool) (h : Option IssuePlan) :
    (issue s n cdb red h).mem = n.mem := by
  rcases issue_cases s n cdb red h with ⟨_, e⟩ | ⟨_, _, _, e⟩ | ⟨_, _, _, _, _, _, e⟩ <;> simp [e]

@[simp] theorem issue_params (s n : State) (cdb : Option Cdb) (red : Bool) (h : Option IssuePlan) :
    (issue s n cdb red h).params = n.params := by
  rcases issue_cases s n cdb red h with ⟨_, e⟩ | ⟨_, _, _, e⟩ | ⟨_, _, _, _, _, _, e⟩ <;> simp [e]

@[simp] theorem issue_robHead (s n : State) (cdb : Option Cdb) (red : Bool) (h : Option IssuePlan) :
    (issue s n cdb red h).robHead = n.robHead := by
  rcases issue_cases s n cdb red h with ⟨_, e⟩ | ⟨_, _, _, e⟩ | ⟨_, _, _, _, _, _, e⟩ <;> simp [e]

@[simp] theorem issue_predCtr (s n : State) (cdb : Option Cdb) (red : Bool) (h : Option IssuePlan) :
    (issue s n cdb red h).predCtr = n.predCtr := by
  rcases issue_cases s n cdb red h with ⟨_, e⟩ | ⟨_, _, _, e⟩ | ⟨_, _, _, _, _, _, e⟩ <;> simp [e]

@[simp] theorem issue_flush (s n : State) (cdb : Option Cdb) (red : Bool) (h : Option IssuePlan) :
    (issue s n cdb red h).flush = n.flush := by
  rcases issue_cases s n cdb red h with ⟨_, e⟩ | ⟨_, _, _, e⟩ | ⟨_, _, _, _, _, _, e⟩ <;> simp [e]

@[simp] theorem issue_halted (s n : State) (cdb : Option Cdb) (red : Bool) (h : Option IssuePlan) :
    (issue s n cdb red h).halted = n.halted := by
  rcases issue_cases s n cdb red h with ⟨_, e⟩ | ⟨_, _, _, e⟩ | ⟨_, _, _, _, _, _, e⟩ <;> simp [e]

@[simp] theorem issue_fatal (s n : State) (cdb : Option Cdb) (red : Bool) (h : Option IssuePlan) :
    (issue s n cdb red h).fatal = n.fatal := by
  rcases issue_cases s n cdb red h with ⟨_, e⟩ | ⟨_, _, _, e⟩ | ⟨_, _, _, _, _, _, e⟩ <;> simp [e]

/-! ### The cycle -/

/-- An active cycle that is not refused is a flush, or the writes of Execute, Commit and Issue in this order (R124, R125). -/
theorem activeCycle_cases {s t : State} {h : Option IssuePlan} (e : activeCycle s h = .next t) :
    ∃ ex cm, execute s = .ok ex ∧ commit s = .ok cm ∧
      ((∃ b, cm = .mispredicted b ∧ t = flushState s b) ∨
        ((∀ b, cm ≠ .mispredicted b) ∧
          t = issue s (applyCommit s.robHead (applyExecute s ex) cm) ex.cdb cm.redirects h)) := by
  unfold activeCycle at e
  cases hx : execute s with
  | error r => rw [hx] at e; simp at e
  | ok ex =>
    rw [hx] at e
    cases hc : commit s with
    | error r => rw [hc] at e; simp at e
    | ok cm =>
      rw [hc] at e
      refine ⟨ex, cm, rfl, rfl, ?_⟩
      cases cm with
      | idle => simp only [Host.Outcome.next.injEq] at e; exact .inr ⟨by simp, e.symm⟩
      | mispredicted b => simp only [Host.Outcome.next.injEq] at e; exact .inl ⟨b, rfl, e.symm⟩
      | retired c b => simp only [Host.Outcome.next.injEq] at e; exact .inr ⟨by simp, e.symm⟩

/-- A cycle that is not refused leaves a terminal state as it is (R126), clears the flush flag (R127), or is an active cycle in which
Fetch hands over what it is given, or nothing while it is stopped (R128). -/
theorem cycle_cases {s t : State} {h : Option IssuePlan} (e : cycle s h = .next t) :
    (terminal s = true ∧ t = s) ∨
    (terminal s = false ∧ s.flush = true ∧ t = { s with flush := false }) ∨
    (terminal s = false ∧ s.flush = false ∧ (s.block = true ∨ s.draining = true) ∧ activeCycle s none = .next t) ∨
    (terminal s = false ∧ s.flush = false ∧ s.block = false ∧ s.draining = false ∧ activeCycle s h = .next t) := by
  unfold cycle at e
  cases ht : terminal s with
  | true => rw [ht] at e; simp only [if_true, Host.Outcome.next.injEq] at e; exact .inl ⟨rfl, e.symm⟩
  | false =>
    rw [ht] at e
    simp only [Bool.false_eq_true, if_false] at e
    refine .inr ?_
    cases hf : s.flush with
    | true => rw [hf] at e; simp only [if_true, Host.Outcome.next.injEq] at e; exact .inl ⟨rfl, rfl, e.symm⟩
    | false =>
      rw [hf] at e
      simp only [Bool.false_eq_true, if_false] at e
      refine .inr ?_
      by_cases hb : (s.block || s.draining) = true
      · rw [if_pos hb] at e
        exact .inl ⟨rfl, rfl, by simpa using hb, e⟩
      · rw [if_neg hb] at e
        simp only [Bool.or_eq_true, not_or, Bool.not_eq_true] at hb
        exact .inr ⟨rfl, rfl, hb.1, hb.2, e⟩

/-- What an instruction asks of Issue at the state it is fetched in (R149, R151, R157). -/
def planOf (i : Instr) (s : State) : IssuePlan :=
  match i with
  | .halt => haltPlan (recordOf .halt) s.pc
  | .lui rd imm => upperPlan (recordOf (.lui rd imm)) s.pc
  | .auipc rd imm => pcRelPlan (recordOf (.auipc rd imm)) s.pc
  | .jal rd imm => jalPlan (recordOf (.jal rd imm)) s.pc
  | .jalr rd rs1 imm => jalrPlan (recordOf (.jalr rd rs1 imm)) s.pc
  | .beq a b imm => branchPlan (recordOf (.beq a b imm)) s.pc (predict s.predCtr)
  | .bne a b imm => branchPlan (recordOf (.bne a b imm)) s.pc (predict s.predCtr)
  | .blt a b imm => branchPlan (recordOf (.blt a b imm)) s.pc (predict s.predCtr)
  | .bge a b imm => branchPlan (recordOf (.bge a b imm)) s.pc (predict s.predCtr)
  | .bltu a b imm => branchPlan (recordOf (.bltu a b imm)) s.pc (predict s.predCtr)
  | .bgeu a b imm => branchPlan (recordOf (.bgeu a b imm)) s.pc (predict s.predCtr)
  | .sb a b imm => regRegPlan (recordOf (.sb a b imm)) s.pc
  | .sh a b imm => regRegPlan (recordOf (.sh a b imm)) s.pc
  | .sw a b imm => regRegPlan (recordOf (.sw a b imm)) s.pc
  | .add rd a b => regRegPlan (recordOf (.add rd a b)) s.pc
  | .sub rd a b => regRegPlan (recordOf (.sub rd a b)) s.pc
  | .sll rd a b => regRegPlan (recordOf (.sll rd a b)) s.pc
  | .slt rd a b => regRegPlan (recordOf (.slt rd a b)) s.pc
  | .sltu rd a b => regRegPlan (recordOf (.sltu rd a b)) s.pc
  | .xor rd a b => regRegPlan (recordOf (.xor rd a b)) s.pc
  | .srl rd a b => regRegPlan (recordOf (.srl rd a b)) s.pc
  | .sra rd a b => regRegPlan (recordOf (.sra rd a b)) s.pc
  | .or rd a b => regRegPlan (recordOf (.or rd a b)) s.pc
  | .and rd a b => regRegPlan (recordOf (.and rd a b)) s.pc
  | .lb rd a imm => regImmPlan (recordOf (.lb rd a imm)) s.pc
  | .lh rd a imm => regImmPlan (recordOf (.lh rd a imm)) s.pc
  | .lw rd a imm => regImmPlan (recordOf (.lw rd a imm)) s.pc
  | .lbu rd a imm => regImmPlan (recordOf (.lbu rd a imm)) s.pc
  | .lhu rd a imm => regImmPlan (recordOf (.lhu rd a imm)) s.pc
  | .addi rd a imm => regImmPlan (recordOf (.addi rd a imm)) s.pc
  | .slti rd a imm => regImmPlan (recordOf (.slti rd a imm)) s.pc
  | .sltiu rd a imm => regImmPlan (recordOf (.sltiu rd a imm)) s.pc
  | .xori rd a imm => regImmPlan (recordOf (.xori rd a imm)) s.pc
  | .ori rd a imm => regImmPlan (recordOf (.ori rd a imm)) s.pc
  | .andi rd a imm => regImmPlan (recordOf (.andi rd a imm)) s.pc
  | .slli rd a b => regImmPlan (recordOf (.slli rd a b)) s.pc
  | .srli rd a b => regImmPlan (recordOf (.srli rd a b)) s.pc
  | .srai rd a b => regImmPlan (recordOf (.srai rd a b)) s.pc

/-- Every instruction's meaning is the cycle in which its plan is handed to Issue (log entry 1). -/
theorem exec_eq_cycle (i : Instr) (s : State) : exec i s = cycle s (some (planOf i s)) := by
  cases i <;> rfl

/-- What one step is: a cycle with nothing handed over, or with the plan of the decoded instruction, or with that of INVALID. -/
theorem step_cases (s : State) :
    (fetchActs s = false ∧ step s = cycle s none) ∨
    (fetchActs s = true ∧ ∃ r, fetchWord s = .error r ∧ step s = .refused r) ∨
    (fetchActs s = true ∧ ∃ w i, fetchWord s = .ok w ∧ decodeWord w = .ok i ∧ step s = exec i s) ∨
    (fetchActs s = true ∧ ∃ w r, fetchWord s = .ok w ∧ decodeWord w = .error r ∧ step s = execInvalid s) := by
  have hstep : step s =
      if fetchActs s then
        match fetchWord s with
        | .error r => .refused r
        | .ok w => match decodeWord w with | .ok i => exec i s | .error _ => execInvalid s
      else cycle s none := rfl
  cases hf : fetchActs s with
  | false => rw [hf] at hstep; exact .inl ⟨rfl, hstep⟩
  | true =>
    rw [hf, if_pos rfl] at hstep
    refine .inr ?_
    cases hw : fetchWord s with
    | error r => rw [hw] at hstep; exact .inl ⟨rfl, r, rfl, hstep⟩
    | ok w =>
      rw [hw] at hstep
      refine .inr ?_
      cases hd : decodeWord w with
      | ok i => simp only [hd] at hstep; exact .inl ⟨rfl, w, i, rfl, hd, hstep⟩
      | error r => simp only [hd] at hstep; exact .inr ⟨rfl, w, r, rfl, hd, hstep⟩

/-- Every step is some cycle: the one inversion of `step` that an invariant needs. -/
theorem step_is_cycle {s t : State} (h : step s = .next t) : ∃ p, cycle s p = .next t := by
  rcases step_cases s with ⟨_, e⟩ | ⟨_, r, _, e⟩ | ⟨_, _, i, _, _, e⟩ | ⟨_, _, _, _, _, e⟩
  · exact ⟨_, e ▸ h⟩
  · rw [e] at h; simp at h
  · exact ⟨_, (exec_eq_cycle i s) ▸ e ▸ h⟩
  · exact ⟨_, e ▸ h⟩

end Sys2Proof.Machine
end

