-- ==== Sys2Proof/Laws/Decode.lean ====
section
/-! SUPPORT. The fields of a packed word: each format holds each of its fields where the decoder looks for it (`30_encoding.md`
R93, R94), and each immediate comes back when it fits its format (R95). -/

namespace Sys2Proof

@[simp] theorem fieldOpcode_packR (f7 : BitVec 7) (rs2 rs1 : Reg) (f3 : BitVec 3) (rd : Reg) (o : BitVec 7) : fieldOpcode (packR f7 rs2 rs1 f3 rd o) = o := by
  ext i hi
  simp only [fieldOpcode, packR, BitVec.getElem_extractLsb', BitVec.getLsbD_append]
  repeat' split
  all_goals first | omega | (rw [BitVec.getLsbD_eq_getElem (by omega)]; congr 1; omega)

@[simp] theorem fieldRd_packR (f7 : BitVec 7) (rs2 rs1 : Reg) (f3 : BitVec 3) (rd : Reg) (o : BitVec 7) : fieldRd (packR f7 rs2 rs1 f3 rd o) = rd := by
  ext i hi
  simp only [fieldRd, packR, BitVec.getElem_extractLsb', BitVec.getLsbD_append]
  repeat' split
  all_goals first | omega | (rw [BitVec.getLsbD_eq_getElem (by omega)]; congr 1; omega)

@[simp] theorem fieldFunct3_packR (f7 : BitVec 7) (rs2 rs1 : Reg) (f3 : BitVec 3) (rd : Reg) (o : BitVec 7) : fieldFunct3 (packR f7 rs2 rs1 f3 rd o) = f3 := by
  ext i hi
  simp only [fieldFunct3, packR, BitVec.getElem_extractLsb', BitVec.getLsbD_append]
  repeat' split
  all_goals first | omega | (rw [BitVec.getLsbD_eq_getElem (by omega)]; congr 1; omega)

@[simp] theorem fieldRs1_packR (f7 : BitVec 7) (rs2 rs1 : Reg) (f3 : BitVec 3) (rd : Reg) (o : BitVec 7) : fieldRs1 (packR f7 rs2 rs1 f3 rd o) = rs1 := by
  ext i hi
  simp only [fieldRs1, packR, BitVec.getElem_extractLsb', BitVec.getLsbD_append]
  repeat' split
  all_goals first | omega | (rw [BitVec.getLsbD_eq_getElem (by omega)]; congr 1; omega)

@[simp] theorem fieldRs2_packR (f7 : BitVec 7) (rs2 rs1 : Reg) (f3 : BitVec 3) (rd : Reg) (o : BitVec 7) : fieldRs2 (packR f7 rs2 rs1 f3 rd o) = rs2 := by
  ext i hi
  simp only [fieldRs2, packR, BitVec.getElem_extractLsb', BitVec.getLsbD_append]
  repeat' split
  all_goals first | omega | (rw [BitVec.getLsbD_eq_getElem (by omega)]; congr 1; omega)

@[simp] theorem fieldFunct7_packR (f7 : BitVec 7) (rs2 rs1 : Reg) (f3 : BitVec 3) (rd : Reg) (o : BitVec 7) : fieldFunct7 (packR f7 rs2 rs1 f3 rd o) = f7 := by
  ext i hi
  simp only [fieldFunct7, packR, BitVec.getElem_extractLsb', BitVec.getLsbD_append]
  repeat' split
  all_goals first | omega | (rw [BitVec.getLsbD_eq_getElem (by omega)]; congr 1; omega)

@[simp] theorem fieldOpcode_packI (imm : Word) (rs1 : Reg) (f3 : BitVec 3) (rd : Reg) (o : BitVec 7) : fieldOpcode (packI imm rs1 f3 rd o) = o := by
  ext i hi
  simp only [fieldOpcode, packI, BitVec.getElem_extractLsb', BitVec.getLsbD_append]
  repeat' split
  all_goals first | omega | (rw [BitVec.getLsbD_eq_getElem (by omega)]; congr 1; omega)

@[simp] theorem fieldRd_packI (imm : Word) (rs1 : Reg) (f3 : BitVec 3) (rd : Reg) (o : BitVec 7) : fieldRd (packI imm rs1 f3 rd o) = rd := by
  ext i hi
  simp only [fieldRd, packI, BitVec.getElem_extractLsb', BitVec.getLsbD_append]
  repeat' split
  all_goals first | omega | (rw [BitVec.getLsbD_eq_getElem (by omega)]; congr 1; omega)

@[simp] theorem fieldFunct3_packI (imm : Word) (rs1 : Reg) (f3 : BitVec 3) (rd : Reg) (o : BitVec 7) : fieldFunct3 (packI imm rs1 f3 rd o) = f3 := by
  ext i hi
  simp only [fieldFunct3, packI, BitVec.getElem_extractLsb', BitVec.getLsbD_append]
  repeat' split
  all_goals first | omega | (rw [BitVec.getLsbD_eq_getElem (by omega)]; congr 1; omega)

@[simp] theorem fieldRs1_packI (imm : Word) (rs1 : Reg) (f3 : BitVec 3) (rd : Reg) (o : BitVec 7) : fieldRs1 (packI imm rs1 f3 rd o) = rs1 := by
  ext i hi
  simp only [fieldRs1, packI, BitVec.getElem_extractLsb', BitVec.getLsbD_append]
  repeat' split
  all_goals first | omega | (rw [BitVec.getLsbD_eq_getElem (by omega)]; congr 1; omega)

@[simp] theorem fieldOpcode_packS (imm : Word) (rs2 rs1 : Reg) (f3 : BitVec 3) (o : BitVec 7) : fieldOpcode (packS imm rs2 rs1 f3 o) = o := by
  ext i hi
  simp only [fieldOpcode, packS, BitVec.getElem_extractLsb', BitVec.getLsbD_append]
  repeat' split
  all_goals first | omega | (rw [BitVec.getLsbD_eq_getElem (by omega)]; congr 1; omega)

@[simp] theorem fieldFunct3_packS (imm : Word) (rs2 rs1 : Reg) (f3 : BitVec 3) (o : BitVec 7) : fieldFunct3 (packS imm rs2 rs1 f3 o) = f3 := by
  ext i hi
  simp only [fieldFunct3, packS, BitVec.getElem_extractLsb', BitVec.getLsbD_append]
  repeat' split
  all_goals first | omega | (rw [BitVec.getLsbD_eq_getElem (by omega)]; congr 1; omega)

@[simp] theorem fieldRs1_packS (imm : Word) (rs2 rs1 : Reg) (f3 : BitVec 3) (o : BitVec 7) : fieldRs1 (packS imm rs2 rs1 f3 o) = rs1 := by
  ext i hi
  simp only [fieldRs1, packS, BitVec.getElem_extractLsb', BitVec.getLsbD_append]
  repeat' split
  all_goals first | omega | (rw [BitVec.getLsbD_eq_getElem (by omega)]; congr 1; omega)

@[simp] theorem fieldRs2_packS (imm : Word) (rs2 rs1 : Reg) (f3 : BitVec 3) (o : BitVec 7) : fieldRs2 (packS imm rs2 rs1 f3 o) = rs2 := by
  ext i hi
  simp only [fieldRs2, packS, BitVec.getElem_extractLsb', BitVec.getLsbD_append]
  repeat' split
  all_goals first | omega | (rw [BitVec.getLsbD_eq_getElem (by omega)]; congr 1; omega)

@[simp] theorem fieldOpcode_packB (imm : Word) (rs2 rs1 : Reg) (f3 : BitVec 3) (o : BitVec 7) : fieldOpcode (packB imm rs2 rs1 f3 o) = o := by
  ext i hi
  simp only [fieldOpcode, packB, BitVec.getElem_extractLsb', BitVec.getLsbD_append]
  repeat' split
  all_goals first | omega | (rw [BitVec.getLsbD_eq_getElem (by omega)]; congr 1; omega)

@[simp] theorem fieldFunct3_packB (imm : Word) (rs2 rs1 : Reg) (f3 : BitVec 3) (o : BitVec 7) : fieldFunct3 (packB imm rs2 rs1 f3 o) = f3 := by
  ext i hi
  simp only [fieldFunct3, packB, BitVec.getElem_extractLsb', BitVec.getLsbD_append]
  repeat' split
  all_goals first | omega | (rw [BitVec.getLsbD_eq_getElem (by omega)]; congr 1; omega)

@[simp] theorem fieldRs1_packB (imm : Word) (rs2 rs1 : Reg) (f3 : BitVec 3) (o : BitVec 7) : fieldRs1 (packB imm rs2 rs1 f3 o) = rs1 := by
  ext i hi
  simp only [fieldRs1, packB, BitVec.getElem_extractLsb', BitVec.getLsbD_append]
  repeat' split
  all_goals first | omega | (rw [BitVec.getLsbD_eq_getElem (by omega)]; congr 1; omega)

@[simp] theorem fieldRs2_packB (imm : Word) (rs2 rs1 : Reg) (f3 : BitVec 3) (o : BitVec 7) : fieldRs2 (packB imm rs2 rs1 f3 o) = rs2 := by
  ext i hi
  simp only [fieldRs2, packB, BitVec.getElem_extractLsb', BitVec.getLsbD_append]
  repeat' split
  all_goals first | omega | (rw [BitVec.getLsbD_eq_getElem (by omega)]; congr 1; omega)

@[simp] theorem fieldOpcode_packU (imm : Word) (rd : Reg) (o : BitVec 7) : fieldOpcode (packU imm rd o) = o := by
  ext i hi
  simp only [fieldOpcode, packU, BitVec.getElem_extractLsb', BitVec.getLsbD_append]
  repeat' split
  all_goals first | omega | (rw [BitVec.getLsbD_eq_getElem (by omega)]; congr 1; omega)

@[simp] theorem fieldRd_packU (imm : Word) (rd : Reg) (o : BitVec 7) : fieldRd (packU imm rd o) = rd := by
  ext i hi
  simp only [fieldRd, packU, BitVec.getElem_extractLsb', BitVec.getLsbD_append]
  repeat' split
  all_goals first | omega | (rw [BitVec.getLsbD_eq_getElem (by omega)]; congr 1; omega)

@[simp] theorem fieldOpcode_packJ (imm : Word) (rd : Reg) (o : BitVec 7) : fieldOpcode (packJ imm rd o) = o := by
  ext i hi
  simp only [fieldOpcode, packJ, BitVec.getElem_extractLsb', BitVec.getLsbD_append]
  repeat' split
  all_goals first | omega | (rw [BitVec.getLsbD_eq_getElem (by omega)]; congr 1; omega)

@[simp] theorem fieldRd_packJ (imm : Word) (rd : Reg) (o : BitVec 7) : fieldRd (packJ imm rd o) = rd := by
  ext i hi
  simp only [fieldRd, packJ, BitVec.getElem_extractLsb', BitVec.getLsbD_append]
  repeat' split
  all_goals first | omega | (rw [BitVec.getLsbD_eq_getElem (by omega)]; congr 1; omega)

theorem immI_packI (imm : Word) (rs1 : Reg) (f3 : BitVec 3) (rd : Reg) (o : BitVec 7) (h : immFits12 imm = true) : immI (packI imm rs1 f3 rd o) = imm := by
  simp only [immFits12, beq_iff_eq] at h
  rw [← h]
  simp only [immI]
  congr 1
  ext i hi
  simp only [packI, BitVec.getElem_extractLsb', BitVec.getLsbD_append, BitVec.getLsbD_extractLsb',
    BitVec.getElem_setWidth]
  interval_cases i <;> simp_all

theorem immS_packS (imm : Word) (rs2 rs1 : Reg) (f3 : BitVec 3) (o : BitVec 7) (h : immFits12 imm = true) : immS (packS imm rs2 rs1 f3 o) = imm := by
  simp only [immFits12, beq_iff_eq] at h
  rw [← h]
  simp only [immS]
  congr 1
  ext i hi
  simp only [packS, BitVec.getElem_append, BitVec.getElem_extractLsb', BitVec.getLsbD_append, BitVec.getLsbD_extractLsb',
    BitVec.getElem_setWidth]
  interval_cases i <;> simp_all

theorem immB_packB (imm : Word) (rs2 rs1 : Reg) (f3 : BitVec 3) (o : BitVec 7) (h : immFitsBranch imm = true) : immB (packB imm rs2 rs1 f3 o) = imm := by
  simp only [immFitsBranch, Bool.and_eq_true, beq_iff_eq, Bool.not_eq_true'] at h
  rw [← h.1]
  simp only [immB]
  congr 1
  ext i hi
  simp only [packB, BitVec.getElem_append, BitVec.getElem_extractLsb', BitVec.getLsbD_append, BitVec.getLsbD_extractLsb',
    BitVec.getElem_setWidth]
  interval_cases i <;> simp_all

theorem immJ_packJ (imm : Word) (rd : Reg) (o : BitVec 7) (h : immFitsJump imm = true) : immJ (packJ imm rd o) = imm := by
  simp only [immFitsJump, Bool.and_eq_true, beq_iff_eq, Bool.not_eq_true'] at h
  rw [← h.1]
  simp only [immJ]
  congr 1
  ext i hi
  simp only [packJ, BitVec.getElem_append, BitVec.getElem_extractLsb', BitVec.getLsbD_append, BitVec.getLsbD_extractLsb',
    BitVec.getElem_setWidth]
  interval_cases i <;> simp_all

theorem immU_packU (imm : Word) (rd : Reg) (o : BitVec 7) (h : immFitsUpper imm = true) : immU (packU imm rd o) = imm := by
  simp only [immFitsUpper, beq_iff_eq] at h
  apply BitVec.eq_of_getLsbD_eq
  intro i hi
  simp only [immU, packU, BitVec.getLsbD_append, BitVec.getLsbD_extractLsb']
  by_cases h12 : i < 12
  · have hb : (imm.setWidth 12).getLsbD i = (0#12).getLsbD i := by rw [h]
    simp only [BitVec.getLsbD_setWidth, h12, decide_true, Bool.true_and] at hb
    simp [h12, hb]
  · simp [h12, show i - 12 < 20 by omega, show 12 + (i - 12) = i by omega, show ¬ i < 7 by omega, show ¬ i - 7 < 5 by omega,
      show i - 7 - 5 < 20 by omega, show 12 + (i - 7 - 5) = i by omega]

end Sys2Proof
end

