-- ==== Sys2Proof/Laws/PerInstr.lean ====
section
/-! SUPPORT. Facts about every instruction as syntax, one lemma per constructor: the two low bits of its word, and which fields of its
record are present (`30_encoding.md` R91, R92, R94, R97). -/

namespace Sys2Proof.Laws

open Sys2Proof Sys2Proof.Machine

/-- The low two bits of every instruction word are 11: a word with other low bits is unrecognised (R102). -/
def EncodedLowBits.Statement (i : Instr) : Prop := (encode i).extractLsb' 0 2 = 3#2

/-- The two low bits of a word are those of its opcode field (R93). -/
theorem lowBits_eq (w : Word) : w.extractLsb' 0 2 = (fieldOpcode w).extractLsb' 0 2 := by
  ext i hi
  simp [fieldOpcode, BitVec.getElem_extractLsb']

theorem EncodedLowBits.halt : EncodedLowBits.Statement .halt := rfl
theorem EncodedLowBits.lui (rd : Reg) (imm : Word) : EncodedLowBits.Statement (.lui rd imm) := by
  simp [EncodedLowBits.Statement, lowBits_eq, encode]
theorem EncodedLowBits.auipc (rd : Reg) (imm : Word) : EncodedLowBits.Statement (.auipc rd imm) := by
  simp [EncodedLowBits.Statement, lowBits_eq, encode]
theorem EncodedLowBits.jal (rd : Reg) (imm : Word) : EncodedLowBits.Statement (.jal rd imm) := by
  simp [EncodedLowBits.Statement, lowBits_eq, encode]
theorem EncodedLowBits.jalr (rd : Reg) (rs1 : Reg) (imm : Word) : EncodedLowBits.Statement (.jalr rd rs1 imm) := by
  simp [EncodedLowBits.Statement, lowBits_eq, encode]
theorem EncodedLowBits.beq (rs1 : Reg) (rs2 : Reg) (imm : Word) : EncodedLowBits.Statement (.beq rs1 rs2 imm) := by
  simp [EncodedLowBits.Statement, lowBits_eq, encode]
theorem EncodedLowBits.bne (rs1 : Reg) (rs2 : Reg) (imm : Word) : EncodedLowBits.Statement (.bne rs1 rs2 imm) := by
  simp [EncodedLowBits.Statement, lowBits_eq, encode]
theorem EncodedLowBits.blt (rs1 : Reg) (rs2 : Reg) (imm : Word) : EncodedLowBits.Statement (.blt rs1 rs2 imm) := by
  simp [EncodedLowBits.Statement, lowBits_eq, encode]
theorem EncodedLowBits.bge (rs1 : Reg) (rs2 : Reg) (imm : Word) : EncodedLowBits.Statement (.bge rs1 rs2 imm) := by
  simp [EncodedLowBits.Statement, lowBits_eq, encode]
theorem EncodedLowBits.bltu (rs1 : Reg) (rs2 : Reg) (imm : Word) : EncodedLowBits.Statement (.bltu rs1 rs2 imm) := by
  simp [EncodedLowBits.Statement, lowBits_eq, encode]
theorem EncodedLowBits.bgeu (rs1 : Reg) (rs2 : Reg) (imm : Word) : EncodedLowBits.Statement (.bgeu rs1 rs2 imm) := by
  simp [EncodedLowBits.Statement, lowBits_eq, encode]
theorem EncodedLowBits.lb (rd : Reg) (rs1 : Reg) (imm : Word) : EncodedLowBits.Statement (.lb rd rs1 imm) := by
  simp [EncodedLowBits.Statement, lowBits_eq, encode]
theorem EncodedLowBits.lh (rd : Reg) (rs1 : Reg) (imm : Word) : EncodedLowBits.Statement (.lh rd rs1 imm) := by
  simp [EncodedLowBits.Statement, lowBits_eq, encode]
theorem EncodedLowBits.lw (rd : Reg) (rs1 : Reg) (imm : Word) : EncodedLowBits.Statement (.lw rd rs1 imm) := by
  simp [EncodedLowBits.Statement, lowBits_eq, encode]
theorem EncodedLowBits.lbu (rd : Reg) (rs1 : Reg) (imm : Word) : EncodedLowBits.Statement (.lbu rd rs1 imm) := by
  simp [EncodedLowBits.Statement, lowBits_eq, encode]
theorem EncodedLowBits.lhu (rd : Reg) (rs1 : Reg) (imm : Word) : EncodedLowBits.Statement (.lhu rd rs1 imm) := by
  simp [EncodedLowBits.Statement, lowBits_eq, encode]
theorem EncodedLowBits.sb (rs1 : Reg) (rs2 : Reg) (imm : Word) : EncodedLowBits.Statement (.sb rs1 rs2 imm) := by
  simp [EncodedLowBits.Statement, lowBits_eq, encode]
theorem EncodedLowBits.sh (rs1 : Reg) (rs2 : Reg) (imm : Word) : EncodedLowBits.Statement (.sh rs1 rs2 imm) := by
  simp [EncodedLowBits.Statement, lowBits_eq, encode]
theorem EncodedLowBits.sw (rs1 : Reg) (rs2 : Reg) (imm : Word) : EncodedLowBits.Statement (.sw rs1 rs2 imm) := by
  simp [EncodedLowBits.Statement, lowBits_eq, encode]
theorem EncodedLowBits.addi (rd : Reg) (rs1 : Reg) (imm : Word) : EncodedLowBits.Statement (.addi rd rs1 imm) := by
  simp [EncodedLowBits.Statement, lowBits_eq, encode]
theorem EncodedLowBits.slti (rd : Reg) (rs1 : Reg) (imm : Word) : EncodedLowBits.Statement (.slti rd rs1 imm) := by
  simp [EncodedLowBits.Statement, lowBits_eq, encode]
theorem EncodedLowBits.sltiu (rd : Reg) (rs1 : Reg) (imm : Word) : EncodedLowBits.Statement (.sltiu rd rs1 imm) := by
  simp [EncodedLowBits.Statement, lowBits_eq, encode]
theorem EncodedLowBits.xori (rd : Reg) (rs1 : Reg) (imm : Word) : EncodedLowBits.Statement (.xori rd rs1 imm) := by
  simp [EncodedLowBits.Statement, lowBits_eq, encode]
theorem EncodedLowBits.ori (rd : Reg) (rs1 : Reg) (imm : Word) : EncodedLowBits.Statement (.ori rd rs1 imm) := by
  simp [EncodedLowBits.Statement, lowBits_eq, encode]
theorem EncodedLowBits.andi (rd : Reg) (rs1 : Reg) (imm : Word) : EncodedLowBits.Statement (.andi rd rs1 imm) := by
  simp [EncodedLowBits.Statement, lowBits_eq, encode]
theorem EncodedLowBits.slli (rd : Reg) (rs1 : Reg) (shamt : BitVec 5) : EncodedLowBits.Statement (.slli rd rs1 shamt) := by
  simp [EncodedLowBits.Statement, lowBits_eq, encode]
theorem EncodedLowBits.srli (rd : Reg) (rs1 : Reg) (shamt : BitVec 5) : EncodedLowBits.Statement (.srli rd rs1 shamt) := by
  simp [EncodedLowBits.Statement, lowBits_eq, encode]
theorem EncodedLowBits.srai (rd : Reg) (rs1 : Reg) (shamt : BitVec 5) : EncodedLowBits.Statement (.srai rd rs1 shamt) := by
  simp [EncodedLowBits.Statement, lowBits_eq, encode]
theorem EncodedLowBits.add (rd : Reg) (rs1 : Reg) (rs2 : Reg) : EncodedLowBits.Statement (.add rd rs1 rs2) := by
  simp [EncodedLowBits.Statement, lowBits_eq, encode]
theorem EncodedLowBits.sub (rd : Reg) (rs1 : Reg) (rs2 : Reg) : EncodedLowBits.Statement (.sub rd rs1 rs2) := by
  simp [EncodedLowBits.Statement, lowBits_eq, encode]
theorem EncodedLowBits.sll (rd : Reg) (rs1 : Reg) (rs2 : Reg) : EncodedLowBits.Statement (.sll rd rs1 rs2) := by
  simp [EncodedLowBits.Statement, lowBits_eq, encode]
theorem EncodedLowBits.slt (rd : Reg) (rs1 : Reg) (rs2 : Reg) : EncodedLowBits.Statement (.slt rd rs1 rs2) := by
  simp [EncodedLowBits.Statement, lowBits_eq, encode]
theorem EncodedLowBits.sltu (rd : Reg) (rs1 : Reg) (rs2 : Reg) : EncodedLowBits.Statement (.sltu rd rs1 rs2) := by
  simp [EncodedLowBits.Statement, lowBits_eq, encode]
theorem EncodedLowBits.xor (rd : Reg) (rs1 : Reg) (rs2 : Reg) : EncodedLowBits.Statement (.xor rd rs1 rs2) := by
  simp [EncodedLowBits.Statement, lowBits_eq, encode]
theorem EncodedLowBits.srl (rd : Reg) (rs1 : Reg) (rs2 : Reg) : EncodedLowBits.Statement (.srl rd rs1 rs2) := by
  simp [EncodedLowBits.Statement, lowBits_eq, encode]
theorem EncodedLowBits.sra (rd : Reg) (rs1 : Reg) (rs2 : Reg) : EncodedLowBits.Statement (.sra rd rs1 rs2) := by
  simp [EncodedLowBits.Statement, lowBits_eq, encode]
theorem EncodedLowBits.or (rd : Reg) (rs1 : Reg) (rs2 : Reg) : EncodedLowBits.Statement (.or rd rs1 rs2) := by
  simp [EncodedLowBits.Statement, lowBits_eq, encode]
theorem EncodedLowBits.and (rd : Reg) (rs1 : Reg) (rs2 : Reg) : EncodedLowBits.Statement (.and rd rs1 rs2) := by
  simp [EncodedLowBits.Statement, lowBits_eq, encode]

/-- The fields that the class of an instruction does not carry are 0 in its record, and its class is not that of an unrecognised word
(R91, R92). -/
def RecordShape.Statement (i : Instr) : Prop :=
  match (recordOf i).cls with
  | .U => (recordOf i).rs1 = 0 ∧ (recordOf i).rs2 = 0
  | .J => (recordOf i).rs1 = 0 ∧ (recordOf i).rs2 = 0
  | .I => (recordOf i).rs2 = 0
  | .S => (recordOf i).rd = 0
  | .B => (recordOf i).rd = 0
  | .R => (recordOf i).imm = 0
  | .X => False

theorem RecordShape.halt : RecordShape.Statement .halt := rfl
theorem RecordShape.lui (rd : Reg) (imm : Word) : RecordShape.Statement (.lui rd imm) := ⟨rfl, rfl⟩
theorem RecordShape.auipc (rd : Reg) (imm : Word) : RecordShape.Statement (.auipc rd imm) := ⟨rfl, rfl⟩
theorem RecordShape.jal (rd : Reg) (imm : Word) : RecordShape.Statement (.jal rd imm) := ⟨rfl, rfl⟩
theorem RecordShape.jalr (rd : Reg) (rs1 : Reg) (imm : Word) : RecordShape.Statement (.jalr rd rs1 imm) := rfl
theorem RecordShape.beq (rs1 : Reg) (rs2 : Reg) (imm : Word) : RecordShape.Statement (.beq rs1 rs2 imm) := rfl
theorem RecordShape.bne (rs1 : Reg) (rs2 : Reg) (imm : Word) : RecordShape.Statement (.bne rs1 rs2 imm) := rfl
theorem RecordShape.blt (rs1 : Reg) (rs2 : Reg) (imm : Word) : RecordShape.Statement (.blt rs1 rs2 imm) := rfl
theorem RecordShape.bge (rs1 : Reg) (rs2 : Reg) (imm : Word) : RecordShape.Statement (.bge rs1 rs2 imm) := rfl
theorem RecordShape.bltu (rs1 : Reg) (rs2 : Reg) (imm : Word) : RecordShape.Statement (.bltu rs1 rs2 imm) := rfl
theorem RecordShape.bgeu (rs1 : Reg) (rs2 : Reg) (imm : Word) : RecordShape.Statement (.bgeu rs1 rs2 imm) := rfl
theorem RecordShape.lb (rd : Reg) (rs1 : Reg) (imm : Word) : RecordShape.Statement (.lb rd rs1 imm) := rfl
theorem RecordShape.lh (rd : Reg) (rs1 : Reg) (imm : Word) : RecordShape.Statement (.lh rd rs1 imm) := rfl
theorem RecordShape.lw (rd : Reg) (rs1 : Reg) (imm : Word) : RecordShape.Statement (.lw rd rs1 imm) := rfl
theorem RecordShape.lbu (rd : Reg) (rs1 : Reg) (imm : Word) : RecordShape.Statement (.lbu rd rs1 imm) := rfl
theorem RecordShape.lhu (rd : Reg) (rs1 : Reg) (imm : Word) : RecordShape.Statement (.lhu rd rs1 imm) := rfl
theorem RecordShape.sb (rs1 : Reg) (rs2 : Reg) (imm : Word) : RecordShape.Statement (.sb rs1 rs2 imm) := rfl
theorem RecordShape.sh (rs1 : Reg) (rs2 : Reg) (imm : Word) : RecordShape.Statement (.sh rs1 rs2 imm) := rfl
theorem RecordShape.sw (rs1 : Reg) (rs2 : Reg) (imm : Word) : RecordShape.Statement (.sw rs1 rs2 imm) := rfl
theorem RecordShape.addi (rd : Reg) (rs1 : Reg) (imm : Word) : RecordShape.Statement (.addi rd rs1 imm) := rfl
theorem RecordShape.slti (rd : Reg) (rs1 : Reg) (imm : Word) : RecordShape.Statement (.slti rd rs1 imm) := rfl
theorem RecordShape.sltiu (rd : Reg) (rs1 : Reg) (imm : Word) : RecordShape.Statement (.sltiu rd rs1 imm) := rfl
theorem RecordShape.xori (rd : Reg) (rs1 : Reg) (imm : Word) : RecordShape.Statement (.xori rd rs1 imm) := rfl
theorem RecordShape.ori (rd : Reg) (rs1 : Reg) (imm : Word) : RecordShape.Statement (.ori rd rs1 imm) := rfl
theorem RecordShape.andi (rd : Reg) (rs1 : Reg) (imm : Word) : RecordShape.Statement (.andi rd rs1 imm) := rfl
theorem RecordShape.slli (rd : Reg) (rs1 : Reg) (shamt : BitVec 5) : RecordShape.Statement (.slli rd rs1 shamt) := rfl
theorem RecordShape.srli (rd : Reg) (rs1 : Reg) (shamt : BitVec 5) : RecordShape.Statement (.srli rd rs1 shamt) := rfl
theorem RecordShape.srai (rd : Reg) (rs1 : Reg) (shamt : BitVec 5) : RecordShape.Statement (.srai rd rs1 shamt) := rfl
theorem RecordShape.add (rd : Reg) (rs1 : Reg) (rs2 : Reg) : RecordShape.Statement (.add rd rs1 rs2) := rfl
theorem RecordShape.sub (rd : Reg) (rs1 : Reg) (rs2 : Reg) : RecordShape.Statement (.sub rd rs1 rs2) := rfl
theorem RecordShape.sll (rd : Reg) (rs1 : Reg) (rs2 : Reg) : RecordShape.Statement (.sll rd rs1 rs2) := rfl
theorem RecordShape.slt (rd : Reg) (rs1 : Reg) (rs2 : Reg) : RecordShape.Statement (.slt rd rs1 rs2) := rfl
theorem RecordShape.sltu (rd : Reg) (rs1 : Reg) (rs2 : Reg) : RecordShape.Statement (.sltu rd rs1 rs2) := rfl
theorem RecordShape.xor (rd : Reg) (rs1 : Reg) (rs2 : Reg) : RecordShape.Statement (.xor rd rs1 rs2) := rfl
theorem RecordShape.srl (rd : Reg) (rs1 : Reg) (rs2 : Reg) : RecordShape.Statement (.srl rd rs1 rs2) := rfl
theorem RecordShape.sra (rd : Reg) (rs1 : Reg) (rs2 : Reg) : RecordShape.Statement (.sra rd rs1 rs2) := rfl
theorem RecordShape.or (rd : Reg) (rs1 : Reg) (rs2 : Reg) : RecordShape.Statement (.or rd rs1 rs2) := rfl
theorem RecordShape.and (rd : Reg) (rs1 : Reg) (rs2 : Reg) : RecordShape.Statement (.and rd rs1 rs2) := rfl

end Sys2Proof.Laws
end

