-- ==== Sys2Proof/Machine/Assembly.lean ====
section
/-! DEFINITION. The assembly form of the instructions, the register names and the pseudo-instructions (`30_encoding.md` R105 to R107).
Nothing in the block depends on this file: it says which words a toolchain emits. -/

namespace Sys2Proof.Machine

/-! ### Register names (R106) -/

/-- The ABI names in the order of the register numbers; x8 has the second name `fp`. -/
def abiNames : List String :=
  ["zero", "ra", "sp", "gp", "tp", "t0", "t1", "t2", "s0", "s1", "a0", "a1", "a2", "a3", "a4", "a5"] ++
  ["a6", "a7", "s2", "s3", "s4", "s5", "s6", "s7", "s8", "s9", "s10", "s11", "t3", "t4", "t5", "t6"]

/-- The name `x0` .. `x31` (R105). -/
def regName (r : Reg) : String := "x" ++ toString r.toNat

/-- The register of a name: `x0` .. `x31`, or the ABI name. -/
def regOfName (name : String) : Option Reg :=
  if name = "fp" then some 8
  else ((List.range 32).find? fun k => regName (BitVec.ofNat 5 k) == name || abiNames[k]? == some name).map (BitVec.ofNat 5)

/-! ### The text of an instruction (R105) -/

/-- "mnemonic, then destination, then sources, separated by commas". -/
def asmLine (mnemonic : String) (operands : List String) : String := mnemonic ++ " " ++ String.intercalate ", " operands

/-- A signed number in decimal. -/
def asmImm (v : Word) : String := toString v.toInt

/-- `imm(rs1)`. -/
def asmMem (imm : Word) (rs1 : Reg) : String := asmImm imm ++ "(" ++ regName rs1 ++ ")"

/-- The label of a branch or jump at address `p`, as its address: "offset = label - address". -/
def asmLabel (p imm : Word) : String := toString (p + imm).toNat

/-- The `imm20` of a U-type instruction, "the 20-bit value placed in bits 31:12". -/
def asmUpper (imm : Word) : String := toString (imm.extractLsb' 12 20).toNat

/-- The text of an instruction at address `p`, by class (R105); the sentinel is the ADDI it encodes (R99). -/
def asmText (p : Word) : Instr → String
  | .halt => asmLine "addi" [regName retReg, regName 0, "255"]
  | .lui rd imm => asmLine "lui" [regName rd, asmUpper imm]
  | .auipc rd imm => asmLine "auipc" [regName rd, asmUpper imm]
  | .jal rd imm => asmLine "jal" [regName rd, asmLabel p imm]
  | .jalr rd rs1 imm => asmLine "jalr" [regName rd, asmMem imm rs1]
  | .beq rs1 rs2 imm => asmLine "beq" [regName rs1, regName rs2, asmLabel p imm]
  | .bne rs1 rs2 imm => asmLine "bne" [regName rs1, regName rs2, asmLabel p imm]
  | .blt rs1 rs2 imm => asmLine "blt" [regName rs1, regName rs2, asmLabel p imm]
  | .bge rs1 rs2 imm => asmLine "bge" [regName rs1, regName rs2, asmLabel p imm]
  | .bltu rs1 rs2 imm => asmLine "bltu" [regName rs1, regName rs2, asmLabel p imm]
  | .bgeu rs1 rs2 imm => asmLine "bgeu" [regName rs1, regName rs2, asmLabel p imm]
  | .lb rd rs1 imm => asmLine "lb" [regName rd, asmMem imm rs1]
  | .lh rd rs1 imm => asmLine "lh" [regName rd, asmMem imm rs1]
  | .lw rd rs1 imm => asmLine "lw" [regName rd, asmMem imm rs1]
  | .lbu rd rs1 imm => asmLine "lbu" [regName rd, asmMem imm rs1]
  | .lhu rd rs1 imm => asmLine "lhu" [regName rd, asmMem imm rs1]
  | .sb rs1 rs2 imm => asmLine "sb" [regName rs2, asmMem imm rs1]
  | .sh rs1 rs2 imm => asmLine "sh" [regName rs2, asmMem imm rs1]
  | .sw rs1 rs2 imm => asmLine "sw" [regName rs2, asmMem imm rs1]
  | .addi rd rs1 imm => asmLine "addi" [regName rd, regName rs1, asmImm imm]
  | .slti rd rs1 imm => asmLine "slti" [regName rd, regName rs1, asmImm imm]
  | .sltiu rd rs1 imm => asmLine "sltiu" [regName rd, regName rs1, asmImm imm]
  | .xori rd rs1 imm => asmLine "xori" [regName rd, regName rs1, asmImm imm]
  | .ori rd rs1 imm => asmLine "ori" [regName rd, regName rs1, asmImm imm]
  | .andi rd rs1 imm => asmLine "andi" [regName rd, regName rs1, asmImm imm]
  | .slli rd rs1 shamt => asmLine "slli" [regName rd, regName rs1, toString shamt.toNat]
  | .srli rd rs1 shamt => asmLine "srli" [regName rd, regName rs1, toString shamt.toNat]
  | .srai rd rs1 shamt => asmLine "srai" [regName rd, regName rs1, toString shamt.toNat]
  | .add rd rs1 rs2 => asmLine "add" [regName rd, regName rs1, regName rs2]
  | .sub rd rs1 rs2 => asmLine "sub" [regName rd, regName rs1, regName rs2]
  | .sll rd rs1 rs2 => asmLine "sll" [regName rd, regName rs1, regName rs2]
  | .slt rd rs1 rs2 => asmLine "slt" [regName rd, regName rs1, regName rs2]
  | .sltu rd rs1 rs2 => asmLine "sltu" [regName rd, regName rs1, regName rs2]
  | .xor rd rs1 rs2 => asmLine "xor" [regName rd, regName rs1, regName rs2]
  | .srl rd rs1 rs2 => asmLine "srl" [regName rd, regName rs1, regName rs2]
  | .sra rd rs1 rs2 => asmLine "sra" [regName rd, regName rs1, regName rs2]
  | .or rd rs1 rs2 => asmLine "or" [regName rd, regName rs1, regName rs2]
  | .and rd rs1 rs2 => asmLine "and" [regName rd, regName rs1, regName rs2]

/-! ### Pseudo-instructions (R107) -/

/-- The pseudo-instructions of R107; a label or a symbol is its address. -/
inductive Pseudo where
  | nop
  | li (rd : Reg) (imm : Word)
  | mv (rd rs : Reg)
  | not (rd rs : Reg)
  | neg (rd rs : Reg)
  | seqz (rd rs : Reg)
  | snez (rd rs : Reg)
  | sltz (rd rs : Reg)
  | sgtz (rd rs : Reg)
  | beqz (rs : Reg) (target : Word)
  | bnez (rs : Reg) (target : Word)
  | blez (rs : Reg) (target : Word)
  | bgez (rs : Reg) (target : Word)
  | bltz (rs : Reg) (target : Word)
  | bgtz (rs : Reg) (target : Word)
  | bgt (rs rt : Reg) (target : Word)
  | ble (rs rt : Reg) (target : Word)
  | bgtu (rs rt : Reg) (target : Word)
  | bleu (rs rt : Reg) (target : Word)
  | j (target : Word)
  | jal (target : Word)
  | jr (rs : Reg)
  | jalr (rs : Reg)
  | ret
  | call (target : Word)
  | la (rd : Reg) (target : Word)
deriving DecidableEq, Repr

/-- `addi rd, x0, imm`, as its word is read: `li a0, 255` is the sentinel (R99, last row of R107). -/
def loadSmall (rd : Reg) (imm : Word) : Instr := if rd = retReg ∧ imm = 255 then .halt else .addi rd 0 imm

/-- `hi` of R107: `(v + 0x800)[31:12]`, in bits 31:12. -/
def hiPart (v : Word) : Word := (v + 0x800) &&& 0xFFFFF000

/-- `lo` of R107: `sext_12(v[11:0])`. -/
def loPart (v : Word) : Word := (v.extractLsb' 0 12).signExtend 32

/-- The instructions a toolchain emits for a pseudo-instruction at address `p` (R107). For `call` and `la` the spec names `hi` and
`lo` without a formula: those of the `li` row, of the offset from `p` (DEDUCED, log entry 14). -/
def expand (p : Word) : Pseudo → List Instr
  | .nop => [.addi 0 0 0]
  | .li rd imm =>
    if (imm.extractLsb' 0 12).signExtend 32 = imm then [loadSmall rd imm]
    else [.lui rd (hiPart imm), .addi rd rd (loPart imm)]
  | .mv rd rs => [.addi rd rs 0]
  | .not rd rs => [.xori rd rs 0xFFFFFFFF]
  | .neg rd rs => [.sub rd 0 rs]
  | .seqz rd rs => [.sltiu rd rs 1]
  | .snez rd rs => [.sltu rd 0 rs]
  | .sltz rd rs => [.slt rd rs 0]
  | .sgtz rd rs => [.slt rd 0 rs]
  | .beqz rs t => [.beq rs 0 (t - p)]
  | .bnez rs t => [.bne rs 0 (t - p)]
  | .blez rs t => [.bge 0 rs (t - p)]
  | .bgez rs t => [.bge rs 0 (t - p)]
  | .bltz rs t => [.blt rs 0 (t - p)]
  | .bgtz rs t => [.blt 0 rs (t - p)]
  | .bgt rs rt t => [.blt rt rs (t - p)]
  | .ble rs rt t => [.bge rt rs (t - p)]
  | .bgtu rs rt t => [.bltu rt rs (t - p)]
  | .bleu rs rt t => [.bgeu rt rs (t - p)]
  | .j t => [.jal 0 (t - p)]
  | .jal t => [.jal 1 (t - p)]
  | .jr rs => [.jalr 0 rs 0]
  | .jalr rs => [.jalr 1 rs 0]
  | .ret => [.jalr 0 1 0]
  | .call t => [.auipc 1 (hiPart (t - p)), .jalr 1 1 (loPart (t - p))]
  | .la rd t => [.auipc rd (hiPart (t - p)), .addi rd rd (loPart (t - p))]

end Sys2Proof.Machine
end

