-- ==== Sys2Proof/Tests/Slice0.lean ====
section
/-! SUPPORT. The tests: the words and the results of `95_test_vectors.md` (section numbers "T<n>"), the ill-formed terms that
`Instr.wf` refuses, and a witness for every obligation that has hypotheses. Each is one evaluation on a small state. -/

set_option Elab.async false

namespace Sys2Proof.Tests

open Sys2Proof Sys2Proof.Machine Sys2Proof.Safety

/-! ### Decoding: a word written out from R94 and R97 for every constructor (T2, T5 to T7) -/

theorem test_lui_decodes : decodeTableWord 32 0xFFFFF2B7 = some (.lui 5 0xFFFFF000) ∧ encode (.lui 5 0xFFFFF000) = 0xFFFFF2B7 := by decide
theorem test_auipc_decodes : decodeTableWord 32 0x00001317 = some (.auipc 6 0x1000) ∧ encode (.auipc 6 0x1000) = 0x00001317 := by decide
theorem test_jal_decodes : decodeTableWord 32 0xFF1FF06F = some (.jal 0 0xFFFFFFF0) ∧ encode (.jal 0 0xFFFFFFF0) = 0xFF1FF06F := by decide
theorem test_jalr_decodes : decodeTableWord 32 0x80008067 = some (.jalr 0 1 0xFFFFF800) ∧ encode (.jalr 0 1 0xFFFFF800) = 0x80008067 := by decide
theorem test_beq_decodes : decodeTableWord 32 0x7E628FE3 = some (.beq 5 6 0xFFE) ∧ encode (.beq 5 6 0xFFE) = 0x7E628FE3 := by decide
theorem test_bne_decodes : decodeTableWord 32 0x80629063 = some (.bne 5 6 0xFFFFF000) ∧ encode (.bne 5 6 0xFFFFF000) = 0x80629063 := by decide
theorem test_blt_decodes : decodeTableWord 32 0x0062C663 = some (.blt 5 6 12) ∧ encode (.blt 5 6 12) = 0x0062C663 := by decide
theorem test_bge_decodes : decodeTableWord 32 0x0062D463 = some (.bge 5 6 8) ∧ encode (.bge 5 6 8) = 0x0062D463 := by decide
theorem test_bltu_decodes : decodeTableWord 32 0x0062E463 = some (.bltu 5 6 8) ∧ encode (.bltu 5 6 8) = 0x0062E463 := by decide
theorem test_bgeu_decodes : decodeTableWord 32 0xFE62FEE3 = some (.bgeu 5 6 0xFFFFFFFC) ∧ encode (.bgeu 5 6 0xFFFFFFFC) = 0xFE62FEE3 := by decide
theorem test_lb_decodes : decodeTableWord 32 0x7FF28303 = some (.lb 6 5 0x7FF) ∧ encode (.lb 6 5 0x7FF) = 0x7FF28303 := by decide
theorem test_lh_decodes : decodeTableWord 32 0xFFE29303 = some (.lh 6 5 0xFFFFFFFE) ∧ encode (.lh 6 5 0xFFFFFFFE) = 0xFFE29303 := by decide
theorem test_lw_decodes : decodeTableWord 32 0xFFC2A303 = some (.lw 6 5 0xFFFFFFFC) ∧ encode (.lw 6 5 0xFFFFFFFC) = 0xFFC2A303 := by decide
theorem test_lbu_decodes : decodeTableWord 32 0x0012C303 = some (.lbu 6 5 1) ∧ encode (.lbu 6 5 1) = 0x0012C303 := by decide
theorem test_lhu_decodes : decodeTableWord 32 0x0022D303 = some (.lhu 6 5 2) ∧ encode (.lhu 6 5 2) = 0x0022D303 := by decide
theorem test_sb_decodes : decodeTableWord 32 0x7E728FA3 = some (.sb 5 7 0x7FF) ∧ encode (.sb 5 7 0x7FF) = 0x7E728FA3 := by decide
theorem test_sh_decodes : decodeTableWord 32 0x80729023 = some (.sh 5 7 0xFFFFF800) ∧ encode (.sh 5 7 0xFFFFF800) = 0x80729023 := by decide
theorem test_sw_decodes : decodeTableWord 32 0xFE72AE23 = some (.sw 5 7 0xFFFFFFFC) ∧ encode (.sw 5 7 0xFFFFFFFC) = 0xFE72AE23 := by decide
theorem test_addi_decodes : decodeTableWord 32 0x80028313 = some (.addi 6 5 0xFFFFF800) ∧ encode (.addi 6 5 0xFFFFF800) = 0x80028313 := by decide
theorem test_slti_decodes : decodeTableWord 32 0xFFF2A313 = some (.slti 6 5 0xFFFFFFFF) ∧ encode (.slti 6 5 0xFFFFFFFF) = 0xFFF2A313 := by decide
theorem test_sltiu_decodes : decodeTableWord 32 0xFFF2B313 = some (.sltiu 6 5 0xFFFFFFFF) ∧ encode (.sltiu 6 5 0xFFFFFFFF) = 0xFFF2B313 := by decide
theorem test_xori_decodes : decodeTableWord 32 0x7FF2C313 = some (.xori 6 5 0x7FF) ∧ encode (.xori 6 5 0x7FF) = 0x7FF2C313 := by decide
theorem test_ori_decodes : decodeTableWord 32 0x8002E313 = some (.ori 6 5 0xFFFFF800) ∧ encode (.ori 6 5 0xFFFFF800) = 0x8002E313 := by decide
theorem test_andi_decodes : decodeTableWord 32 0xFF02F313 = some (.andi 6 5 0xFFFFFFF0) ∧ encode (.andi 6 5 0xFFFFFFF0) = 0xFF02F313 := by decide
theorem test_slli_decodes : decodeTableWord 32 0x01F29313 = some (.slli 6 5 31) ∧ encode (.slli 6 5 31) = 0x01F29313 := by decide
theorem test_srli_decodes : decodeTableWord 32 0x0042D313 = some (.srli 6 5 4) ∧ encode (.srli 6 5 4) = 0x0042D313 := by decide
theorem test_srai_decodes : decodeTableWord 32 0x41F2D313 = some (.srai 6 5 31) ∧ encode (.srai 6 5 31) = 0x41F2D313 := by decide
theorem test_add_decodes : decodeTableWord 32 0x006283B3 = some (.add 7 5 6) ∧ encode (.add 7 5 6) = 0x006283B3 := by decide
theorem test_sub_decodes : decodeTableWord 32 0x406283B3 = some (.sub 7 5 6) ∧ encode (.sub 7 5 6) = 0x406283B3 := by decide
theorem test_sll_decodes : decodeTableWord 32 0x006293B3 = some (.sll 7 5 6) ∧ encode (.sll 7 5 6) = 0x006293B3 := by decide
theorem test_slt_decodes : decodeTableWord 32 0x0062A3B3 = some (.slt 7 5 6) ∧ encode (.slt 7 5 6) = 0x0062A3B3 := by decide
theorem test_sltu_decodes : decodeTableWord 32 0x0062B3B3 = some (.sltu 7 5 6) ∧ encode (.sltu 7 5 6) = 0x0062B3B3 := by decide
theorem test_xor_decodes : decodeTableWord 32 0x0062C3B3 = some (.xor 7 5 6) ∧ encode (.xor 7 5 6) = 0x0062C3B3 := by decide
theorem test_srl_decodes : decodeTableWord 32 0x0062D3B3 = some (.srl 7 5 6) ∧ encode (.srl 7 5 6) = 0x0062D3B3 := by decide
theorem test_sra_decodes : decodeTableWord 32 0x4062D3B3 = some (.sra 7 5 6) ∧ encode (.sra 7 5 6) = 0x4062D3B3 := by decide
theorem test_or_decodes : decodeTableWord 32 0x0062E3B3 = some (.or 7 5 6) ∧ encode (.or 7 5 6) = 0x0062E3B3 := by decide
theorem test_and_decodes : decodeTableWord 32 0x0062F3B3 = some (.and 7 5 6) ∧ encode (.and 7 5 6) = 0x0062F3B3 := by decide
theorem test_halt_decodes : decodeTableWord 32 0x0FF00513 = some .halt ∧ encode .halt = 0x0FF00513 := by decide

/-- T2: words that are unrecognised. -/
theorem test_unrecognised_words :
    [0x00000000, 0xFFFFFFFF, 0x00000073, 0x00100073, 0x30200073, 0x0FF0000F, 0x026283B3, 0x406293B3, 0x02029313, 0x40029313,
      0x8002D313, 0x00001067, 0x00002063, 0x00003003, 0x00006003, 0x00003023, 0x00000001, 0x0000003B, 0x0000002F, 0x00000053].all
        (fun w => decide (decodeRecord w = invalidRecord)) = true := by decide

/-- R64, R90: the lowest byte in memory holds bits 7:0; what follows the four bytes is handed back. -/
theorem test_bytes_decode : decodeBytes [0x13, 0x05, 0x50, 0x00, 0xAA] = .ok (.addi 10 0 5, [0xAA]) ∧
    decodeBytes [0x13, 0x05, 0x50] = .error .tooShort := by decide

/-! ### Well-formedness: an ill-formed term for each check (R95, R99) -/

theorem test_wf_refuses_wide_immediate : (Instr.addi 1 2 0x800).wf = false ∧ (Instr.addi 1 2 0x7FF).wf = true := by decide
theorem test_wf_refuses_wide_displacement : (Instr.lw 1 2 0xFFFFF7FF).wf = false ∧ (Instr.sw 1 2 0xFFFFF800).wf = true := by decide
theorem test_wf_refuses_odd_branch : (Instr.beq 1 2 5).wf = false ∧ (Instr.beq 1 2 6).wf = true := by decide
theorem test_wf_refuses_far_branch : (Instr.bne 1 2 4096).wf = false ∧ (Instr.bne 1 2 0xFFFFF000).wf = true := by decide
theorem test_wf_refuses_odd_jump : (Instr.jal 1 7).wf = false ∧ (Instr.jal 1 0xFFFFE).wf = true := by decide
theorem test_wf_refuses_far_jump : (Instr.jal 1 0x100000).wf = false ∧ (Instr.jal 1 0xFFF00000).wf = true := by decide
theorem test_wf_refuses_low_bits_of_upper : (Instr.lui 1 0x12345001).wf = false ∧ (Instr.auipc 1 0x12345000).wf = true := by decide
theorem test_wf_refuses_sentinel_as_addi : (Instr.addi 10 0 255).wf = false ∧ (Instr.addi 11 0 255).wf = true := by decide

/-! ### What the operations compute (T3, T5 to T7) -/

theorem test_lui_value : alu .lui 0 0 0xFFFFF000 = some 0xFFFFF000 := by decide
theorem test_auipc_value : alu .auipc 0x1000 0 0xFFFFF000 = some 0 ∧ alu .auipc 8 0 0x1000 = some 0x1008 := by decide
theorem test_addi_value : alu .addi 0x7FFFFFFF 0 1 = some 0x80000000 ∧ alu .addi 0x800 0 0xFFFFF800 = some 0 := by decide
theorem test_slti_value : alu .slti 0xFFFFFFFF 0 0xFFFFFFFF = some 0 ∧ alu .slti 0x80000000 0 0 = some 1 := by decide
theorem test_sltiu_value : alu .sltiu 0xFFFFFFFE 0 0xFFFFFFFF = some 1 ∧ alu .sltiu 1 0 1 = some 0 := by decide
theorem test_xori_value : alu .xori 0x12345678 0 0xFFFFFFFF = some 0xEDCBA987 := by decide
theorem test_ori_value : alu .ori 1 0 0xFFFFF800 = some 0xFFFFF801 := by decide
theorem test_andi_value : alu .andi 0x12345678 0 0xFFFFFFF0 = some 0x12345670 := by decide
theorem test_slli_value : alu .slli 0x12345678 0 4 = some 0x23456780 ∧ alu .slli 3 0 31 = some 0x80000000 := by decide
theorem test_srli_value : alu .srli 0x87654321 0 4 = some 0x08765432 := by decide
theorem test_srai_value : alu .srai 0x87654321 0 4 = some 0xF8765432 ∧ alu .srai 0x7FFFFFFF 0 31 = some 0 := by decide
theorem test_add_value : alu .add 0xFFFFFFFF 1 0 = some 0 := by decide
theorem test_sub_value : alu .sub 0 1 0 = some 0xFFFFFFFF ∧ alu .sub 0x80000000 1 0 = some 0x7FFFFFFF := by decide
theorem test_sll_value : alu .sll 1 0x20 0 = some 1 ∧ alu .sll 0xFFFFFFFF 0xFFFFFFE4 0 = some 0xFFFFFFF0 := by decide
theorem test_slt_value : alu .slt 0xFFFFFFFF 0 0 = some 1 ∧ alu .slt 5 5 0 = some 0 := by decide
theorem test_sltu_value : alu .sltu 0 0xFFFFFFFF 0 = some 1 ∧ alu .sltu 0xFFFFFFFF 0 0 = some 0 := by decide
theorem test_xor_value : alu .xor 0xAAAAAAAA 0x55555555 0 = some 0xFFFFFFFF := by decide
theorem test_srl_value : alu .srl 0x80000000 0x21 0 = some 0x40000000 := by decide
theorem test_sra_value : alu .sra 0x80000000 0x21 0 = some 0xC0000000 ∧ alu .sra 0x40000000 0x1E 0 = some 1 := by decide
theorem test_or_value : alu .or 0xF0F0F0F0 0x0F0F0F0F 0 = some 0xFFFFFFFF := by decide
theorem test_and_value : alu .and 0xFFFF0000 0x0FF00FF0 0 = some 0x0FF00000 := by decide
theorem test_beq_value : alu .beq 5 5 8 = some 1 ∧ alu .beq 5 6 8 = some 0 := by decide
theorem test_bne_value : alu .bne 5 5 8 = some 0 ∧ alu .bne 5 6 8 = some 1 := by decide
theorem test_blt_value : alu .blt 0xFFFFFFFF 0 12 = some 1 ∧ alu .blt 5 5 12 = some 0 := by decide
theorem test_bge_value : alu .bge 5 5 8 = some 1 ∧ alu .bge 0x80000000 0 8 = some 0 := by decide
theorem test_bltu_value : alu .bltu 0 0xFFFFFFFF 8 = some 1 ∧ alu .bltu 0xFFFFFFFF 0 8 = some 0 := by decide
theorem test_bgeu_value : alu .bgeu 0xFFFFFFFF 0 8 = some 1 ∧ alu .bgeu 0 0xFFFFFFFF 8 = some 0 := by decide
theorem test_jal_value : alu .jal 4 0 12 = some 8 := by decide

/-- T4: the memory of the load vectors. -/
def loadMem : Mem :=
  [(0x1000, 0xFF), (0x1001, 0xAA), (0x1002, 0x99), (0x1003, 0x88), (0x1004, 0x44), (0x1005, 0x33), (0x1006, 0x22), (0x1007, 0x11)]

/-- A state for tests: reset, with a pc, some registers and a memory. -/
def demo (pc : Word) (x : List (Reg × Word)) (m : Mem) : State :=
  { State.reset with pc := pc, regs := x.foldl (fun v p => Bank.put v p.1 p.2) State.reset.regs, mem := m }

/-- An RS or LSB entry with both operands resolved. -/
def entry (op : Op) (vj vk imm : Word) (dest : RobId) : StationEntry :=
  { busy := true, op := op, vj := vj, qj := none, vk := vk, qk := none, imm := imm, dest := dest }

theorem test_lb_value : fireEntry (demo 0 [] loadMem) (entry .lb 0x1000 0 3 0) = .ok (.result 0xFFFFFF88 none) := by decide
theorem test_lh_value : fireEntry (demo 0 [] loadMem) (entry .lh 0x1004 0 0xFFFFFFFF 0) = .ok (.result 0x00004488 none) ∧
    fireEntry (demo 0 [] loadMem) (entry .lh 0x1002 0 0 0) = .ok (.result 0xFFFF8899 none) := by decide
theorem test_lw_value : fireEntry (demo 0 [] loadMem) (entry .lw 0x1000 0 1 0) = .ok (.result 0x448899AA none) := by decide
theorem test_lbu_value : fireEntry (demo 0 [] loadMem) (entry .lbu 0x1000 0 0 0) = .ok (.result 0xFF none) := by decide
theorem test_lhu_value : fireEntry (demo 0 [] loadMem) (entry .lhu 0x1000 0 0 0) = .ok (.result 0xAAFF none) := by decide

/-- T4: the three store vectors, in order, on bytes that are all 0xFF. -/
theorem test_store_bytes :
    memWrite (memWrite (memWrite [(0x2000, 0xFF), (0x2001, 0xFF), (0x2002, 0xFF), (0x2003, 0xFF), (0x2004, 0xFF), (0x2005, 0xFF),
      (0x2006, 0xFF), (0x2007, 0xFF)] 0x2000 .byte 0x12345678) 0x2002 .half 0x12345678) 0x2003 .word 0xA1B2C3D4 =
    [(0x2000, 0x78), (0x2001, 0xFF), (0x2002, 0x78), (0x2003, 0xD4), (0x2004, 0xC3), (0x2005, 0xB2), (0x2006, 0xA1), (0x2007, 0xFF)] := by
  decide

/-- T4: addresses wrap (R71). -/
theorem test_address_wrap : memWrite [] 0xFFFFFFFE .word 0xA1B2C3D4 =
      [(0, 0xB2), (1, 0xA1), (0xFFFFFFFE, 0xD4), (0xFFFFFFFF, 0xC3)] ∧
    memRead [(0, 0xB2), (1, 0xA1), (0xFFFFFFFE, 0xD4), (0xFFFFFFFF, 0xC3)] 0xFFFFFFFF .half = 0xB2C3 := by decide

/-- Writing what an unlisted address reads as removes the entry. -/
theorem test_zero_is_not_listed : memWrite [(0x10, 1)] 0x10 .byte 0 = [] := by decide

theorem test_sb_fires : fireEntry (demo 0 [] []) (entry .sb 0x2000 0x12345678 1 0) = .ok (.result 0x12345678 (some 0x2001)) := by decide
theorem test_sh_fires : fireEntry (demo 0 [] []) (entry .sh 0x2000 7 0xFFFFFFFE 0) = .ok (.result 7 (some 0x1FFE)) := by decide
theorem test_sw_fires : fireEntry (demo 0 [] []) (entry .sw 0xFFFFFFFF 7 2 0) = .ok (.result 7 (some 1)) := by decide
theorem test_jalr_fires : fireEntry (demo 0 [] []) (entry .jalr 0x101 0x14 4 0) = .ok (.result 0x18 (some 0x104)) := by decide
theorem test_halt_fires : fireEntry (demo 0 [] []) (entry .halt 0 0 255 0) = .ok (.result 255 none) := by decide
theorem test_invalid_fires : fireEntry (demo 0 [] []) (entry .invalid 0 0 0 0) = .ok .unrecognised := by decide

/-! ### The structures (T8) -/

/-- T8.2. -/
theorem test_overlap : overlap 0x1000 .word 0x1003 .byte = true ∧ overlap 0x1000 .word 0x1004 .byte = false ∧
    overlap 0x1002 .half 0x1000 .half = false ∧ overlap 0x1001 .half 0x1000 .half = true ∧
    overlap 0xFFFFFFFE .word 0 .byte = true ∧ overlap 0xFFFFFFFE .half 0 .byte = false := by decide

/-- T8.3: the counter after each of the eight cases. -/
theorem test_predictor_table : updateCtr false false 0 = 0 ∧ updateCtr false true 0 = 0 ∧ updateCtr false false 1 = 0 ∧
    updateCtr false true 1 = 0 ∧ updateCtr true true 2 = 3 ∧ updateCtr true false 2 = 1 ∧ updateCtr true true 3 = 3 ∧
    updateCtr true false 3 = 2 ∧ predict 1 = false ∧ predict 2 = true := by decide

/-- T8.4. -/
theorem test_image_loader : loadImage "@10\nAb cD\n@0 1 2 3".toList = [(0, 0x12), (0x10, 0xAB), (0x11, 0xCD)] ∧
    loadImage "1 2@4 345 @ 67".toList = [(0, 0x67), (4, 0x34)] ∧ loadImage "@1G 12".toList = [(1, 0x12)] ∧
    loadImage "zz@ffFFffFF 11 22".toList = [(0, 0x22), (0xFFFFFFFF, 0x11)] := by decide +kernel

/-- R106, R107: names, and the pseudo-instruction that halts. -/
theorem test_pseudo_instructions : regOfName "a0" = some 10 ∧ regOfName "fp" = some 8 ∧ regOfName "x31" = some 31 ∧
    regOfName "x32" = none ∧ expand 0 (.li 10 255) = [.halt] ∧ expand 0 (.li 5 0x12345FFF) = [.lui 5 0x12346000, .addi 5 5 0xFFFFFFFF] ∧
    expand 0x100 (.bgt 5 6 0x108) = [.blt 6 5 8] := by decide +kernel

/-- R105. -/
theorem test_assembly_text : asmText 0 (.lb 6 5 0xFFFFFFFF) = "lb x6, -1(x5)" ∧ asmText 0x10 (.bne 5 0 0xFFFFFFF8) = "bne x5, x0, 8" ∧
    asmText 0 (.lui 5 0x1000) = "lui x5, 1" ∧ asmText 0 (.sw 5 7 0) = "sw x7, 0(x5)" := by decide +kernel

/-! ### Small states with instructions in flight -/

/-- The first entries of a bank. -/
def fill {α : Type} (v : Bank α) (l : List α) : Bank α := l.zipIdx.foldl (fun b p => Bank.put b (BitVec.ofNat 5 p.2) p.1) v

/-- A state with ROB entries 0, 1, .. in flight, the first slots of the RS and the LSB filled, and some aliases. -/
def flight (rob : List RobEntry) (rs lsb : List StationEntry) (rat : List (Reg × RobId)) : State :=
  { State.reset with
    rob := fill State.reset.rob rob
    robSize := BitVec.ofNat 6 rob.length
    rs := fill State.reset.rs rs
    lsb := fill State.reset.lsb lsb
    rat := rat.foldl (fun v p => Bank.put v p.1 { busy := true, id := p.2 }) State.reset.rat }

/-- A ROB entry that is not ready. -/
def waiting (op : Op) (rd : Reg) : RobEntry := { busy := true, op := op, rd := rd, value := 0, addr := 0, pred := false, halt := op == .halt }

/-- A ready ROB entry. -/
def done (op : Op) (rd : Reg) (value addr : Word) (pred : Bool) : RobEntry :=
  { busy := false, op := op, rd := rd, value := value, addr := addr, pred := pred, halt := op == .halt }

/-- The answer is a next state, and that state passes the test. -/
def goes (o : Host.Outcome State Fault Refusal) (p : State → Bool) : Bool :=
  match o with
  | .next t => p t
  | .fault _ => false
  | .refused _ => false

/-- The answer is a next state. -/
def isNext (o : Host.Outcome State Fault Refusal) : Bool := goes o fun _ => true

/-- What `isNext` says. -/
theorem exists_of_isNext {o : Host.Outcome State Fault Refusal} (h : isNext o = true) : ∃ t, o = .next t := by
  cases o with
  | next t => exact ⟨t, rfl⟩
  | fault f => simp [isNext, goes] at h
  | refused r => simp [isNext, goes] at h

/-- T8.1, with x5 aliased to ROB entry 3 and x6 = 9. -/
def resolving (busy : Bool) : State :=
  { demo 0 [(5, 7), (6, 9)] [] with
    rat := Bank.put State.reset.rat 5 { busy := true, id := 3 }
    rob := Bank.put State.reset.rob 3 { waiting .addi 5 with busy := busy, value := 0x2A } }

theorem test_resolve : resolve (resolving false) none 0 0 = ⟨0, none⟩ ∧ resolve (resolving false) none 0 6 = ⟨9, none⟩ ∧
    resolve (resolving false) none 0 5 = ⟨0x2A, none⟩ ∧ resolve (resolving true) (some ⟨3, 0x2A⟩) 0 5 = ⟨0x2A, none⟩ ∧
    (resolve (resolving true) (some ⟨4, 0x55⟩) 0 5).tag = some 3 ∧ (resolve (resolving true) none 0 5).tag = some 3 := by decide

/-! ### Witnesses: concrete states and operands that meet the hypotheses of each obligation

A witness has the name of its obligation. Where the conclusion has clauses with conditions of their own, there is a state for each. -/

/-- A drained state with registers, a memory and an ADDI at the pc. -/
def idle : State := demo 0x100 [(5, 0x1000), (6, 0x80000000)] (memWrite loadMem 0x100 .word 0x80028313)

/-- `idle` is drained. -/
theorem idle_drained : Drained idle :=
  { active := by unfold Active Running; decide
    block := by decide
    draining := by decide
    size := by decide
    stations := by
      intro p
      obtain ⟨st, i⟩ := p
      cases st <;> revert i <;> decide +kernel
    aliases := by decide +kernel }

/-- A ready producer at the head has fired its value to nobody yet: rob 0 `addi x5` busy in rs[0], rob 1 `add x6, x5, x5` waiting for it
in rs[1]. -/
def producing : State :=
  flight [waiting .addi 5, waiting .add 6]
    [entry .addi 1 0 2 0, { entry .add 0 0 0 1 with qj := some 0, qk := some 0 }] [] [(5, 0), (6, 1)]

theorem producing_consistent : Consistent producing := consistent_of_check (by decide +kernel)

/-- The head `addi x5` is ready with 7; behind it rob 1 is a load that has not fired. -/
def retiring : State := flight [done .addi 5 7 0 false, waiting .lw 6] [] [entry .lw 0x1000 0 0 1] [(5, 0), (6, 1)]

theorem retiring_consistent : Consistent retiring := consistent_of_check (by decide +kernel)

/-- The head `sw` is ready: 4 bytes at 0xFFFFFFFE. -/
def storing : State := flight [done .sw 0 0xA1B2C3D4 0xFFFFFFFE false] [] [] []

/-- The head `jalr x1` is ready; Fetch is blocked. -/
def returning : State := { flight [done .jalr 1 0x18 0x104 false] [] [] [(1, 0)] with block := true }

/-- T8.5 in small: the head `bne` is mispredicted, an INVALID entry fires and Fetch acts in the same cycle. -/
def mispredicting : State :=
  { flight [done .bne 0 1 0x40 false, waiting .invalid 0] [entry .invalid 0 0 0 1] [] [] with predCtr := 1 }

/-- The head `bne` is correctly predicted taken, with counter 2. -/
def predicted : State := { flight [done .bne 0 1 0x40 true] [] [] [] with predCtr := 2 }

/-- The sentinel alone, ready. -/
def halting : State := { flight [done .halt 10 255 0 false] [] [] [(10, 0)] with drainBit := true }

theorem halting_consistent : Consistent halting := consistent_of_check (by decide +kernel)

/-- The sentinel is at the pc, and nothing is in flight. -/
def sentinelAtPc : State := demo 0 [] (memWrite [] 0 .word 0x0FF00513)

/-- An unrecognised word alone in flight. -/
def broken : State := flight [waiting .invalid 0] [entry .invalid 0 0 0 0] [] []

theorem broken_consistent : Consistent broken := consistent_of_check (by decide +kernel)

/-- A load in the LSB behind a resolved store to the word below its own. -/
def loading : State := flight [done .sw 0 7 0xFFC false, waiting .lw 6] [] [entry .lw 0x1000 0 0 1] [(6, 1)]

/-- A store in the LSB behind a load that has fired. -/
def storeBehindLoad : State := flight [done .lw 6 7 0 false, waiting .sb 0] [] [entry .sb 0x1000 7 3 1] [(6, 0)]

/-- 4096 bytes of memory only. -/
def smallMemory (s : State) : State := { s with params := { Params.standard with memBytes := 4096 } }

theorem witness_DecodeOfEncode : (Instr.jal 1 0xFFFFE).wf = true ∧ (Instr.jal 1 0xFFF00000).wf = true := by decide
theorem witness_EncodeOfDecode : decodeWord 0x80629063 = .ok (.bne 5 6 0xFFFFF000) := by decide
theorem witness_OpcodeTableSelectsOperation :
    ((0x0FF00593 : Word) ≠ haltWord ∧ (0x00000013, 0x0000707F, Op.addi) ∈ opcodeRows ∧ (0x0FF00593 &&& 0x0000707F : Word) = 0x00000013) ∧
    ((0 : Word) ≠ haltWord ∧ ∀ row ∈ opcodeRows, (0 : Word) &&& row.2.1 ≠ row.1) := by decide
theorem witness_UnrecognisedWordsExhaustively :
    (0x00000001 : Word).extractLsb' 0 2 ≠ 3#2 ∧ (0x00000073 : Word).extractLsb' 0 7 = 0x73#7 ∧
    ((0x026283B3 : Word).extractLsb' 0 7 = 0x33#7 ∧ (0x026283B3 : Word).extractLsb' 25 7 = 1#7) ∧
    (decodeRecord 0x40029313).op = .invalid ∧ (decodeRecord 0x80629063).op = .bne := by decide
theorem witness_StepRunsDecodedInstruction : fetchActs idle = true ∧ inMemory idle.params idle.pc .word = true ∧
    decodeBytes [memByte idle.mem idle.pc, memByte idle.mem (idle.pc + 1), memByte idle.mem (idle.pc + 2), memByte idle.mem (idle.pc + 3)] =
      .ok (.addi 6 5 0xFFFFF800, []) ∧ isNext (step idle) = true := by decide +kernel
theorem witness_StepWithoutInstruction :
    (fetchActs State.reset = true ∧ fetchWord State.reset = .ok 0 ∧ (decodeRecord 0).op = .invalid) ∧
    (Active returning ∧ returning.block = true) ∧ (Active halting ∧ halting.draining = true) := by
  unfold Active Running; decide +kernel
theorem witness_TerminalStateIsFrozen : ({ idle with halted := true } : State).halted = true ∧
    ({ idle with fatal := true } : State).fatal = true := by decide
theorem witness_FlushCycleOnlyClearsFlag : Running { idle with flush := true } ∧ ({ idle with flush := true } : State).flush = true := by
  unfold Running; decide
theorem witness_NothingRefusedWithFullMemory : FullMemory idle := rfl
theorem witness_AccessBeyondMemoryRefused :
    (fetchActs (smallMemory (demo 0xFFD [] [])) = true ∧ inMemory (smallMemory (demo 0xFFD [] [])).params 0xFFD .word = false) ∧
    (Active (smallMemory retiring) ∧ fetchActs (smallMemory retiring) = true ∧
      inMemory (smallMemory retiring).params (smallMemory retiring).pc .word = true ∧ select (smallMemory retiring) = some ⟨.lsb, 0⟩ ∧
      (entryAt (smallMemory retiring) ⟨.lsb, 0⟩).op.isLoad = true ∧
      inMemory (smallMemory retiring).params (effectiveAddress (entryAt (smallMemory retiring) ⟨.lsb, 0⟩)) .word = false) ∧
    (Active (smallMemory storing) ∧ select (smallMemory storing) = none ∧ HeadReady (smallMemory storing) ∧
      (head (smallMemory storing)).halt = false ∧ (head (smallMemory storing)).op.isStore = true ∧
      inMemory (smallMemory storing).params (head (smallMemory storing)).addr .word = false) := by
  unfold Active Running HeadReady; decide +kernel
theorem witness_StepKeepsConsistent : Consistent producing ∧ ∃ t, step producing = .next t :=
  ⟨producing_consistent, exists_of_isNext (by decide +kernel)⟩
theorem witness_StepKeepsMemoryCanonical : storing.mem.wf = true ∧ goes (step storing) (fun t => t.mem.length == 4) = true := by
  decide +kernel
theorem witness_RegisterZeroNeverWritten : ∃ t, Moves (flight [done .addi 0 7 0 false] [] [] []) t := by
  obtain ⟨t, h⟩ := exists_of_isNext (o := step (flight [done .addi 0 7 0 false] [] [] [])) (by decide +kernel)
  exact ⟨t, .inl h⟩
theorem witness_PredictorStaysUntaken : ({ predicted with predCtr := 1 } : State).predCtr.toNat < 2 ∧
    mispredicting.predCtr.toNat < 2 ∧
    (∀ k : RobId, occupied mispredicting k = true → (robAt mispredicting k).op.isBranch = true → (robAt mispredicting k).pred = false) ∧
    isNext (step mispredicting) = true := by decide +kernel
theorem witness_OnlyCommitWritesArchitecturalState :
    (retiring.mem.wf = true ∧ goes (step retiring) (fun t => readReg t 5 == 7 && readReg t 5 != readReg retiring 5) = true) ∧
    (storing.mem.wf = true ∧ goes (step storing) (fun t => memByte t.mem 0 != memByte storing.mem 0) = true) := by decide +kernel
theorem witness_OneMutationPerCycle :
    goes (exec (.addi 1 1 1) retiring) (fun t => readReg t 5 != readReg retiring 5) = true := by decide +kernel
theorem witness_BusyHeadHoldsCommit : (Active producing ∧ ¬ HeadReady producing ∧ isNext (step producing) = true) ∧
    (Active idle ∧ ¬ HeadReady idle ∧ isNext (step idle) = true) := by
  unfold Active Running HeadReady; decide +kernel
theorem witness_RegisterCommit :
    (FullMemory retiring ∧ Active retiring ∧ HeadReady retiring ∧ (head retiring).halt = false ∧ (head retiring).op.writesReg = true ∧
      (head retiring).op ≠ .jalr ∧ (head retiring).op ≠ .halt) ∧
    goes (step retiring) (fun t => (Bank.get t.rat 6).busy && Bank.get t.rat 6 == ⟨true, 1⟩ && !(Bank.get t.rat 5).busy) = true := by
  unfold FullMemory Active Running HeadReady; decide +kernel
theorem witness_StoreCommit : (FullMemory storing ∧ storing.mem.wf = true ∧ Active storing ∧ HeadReady storing ∧
      (head storing).halt = false ∧ (head storing).op.isStore = true) ∧
    goes (step storing) (fun t => memByte t.mem 1 == 0xA1 && memByte t.mem 0xFFFFFFFE == 0xD4) = true := by
  unfold FullMemory Active Running HeadReady; decide +kernel
theorem witness_JumpRegisterCommit : (FullMemory returning ∧ Active returning ∧ returning.block = true ∧ HeadReady returning ∧
      (head returning).halt = false ∧ (head returning).op = .jalr) ∧ goes (step returning) (fun t => t.pc == 0x104) = true := by
  unfold FullMemory Active Running HeadReady; decide +kernel
theorem witness_MispredictionFlush : (FullMemory mispredicting ∧ Active mispredicting ∧ Mispredicts mispredicting) ∧
    goes (step mispredicting) (fun t => t.pc == 0x40 && !t.fatal && t.predCtr == 0) = true := by
  unfold FullMemory Active Running Mispredicts HeadReady HeadIsBranch; decide +kernel
theorem witness_PredictorCounterTable :
    (Active predicted ∧ HeadReady predicted ∧ HeadIsBranch predicted ∧ goes (step predicted) (fun t => t.predCtr == 3) = true) ∧
    (Active mispredicting ∧ HeadReady mispredicting ∧ HeadIsBranch mispredicting ∧ isNext (step mispredicting) = true) ∧
    (Active retiring ∧ ¬ (HeadReady retiring ∧ HeadIsBranch retiring) ∧ isNext (step retiring) = true) := by
  unfold Active Running HeadReady HeadIsBranch; decide +kernel
theorem witness_SentinelCommitHalts : FullMemory halting ∧ Active halting ∧ HeadReady halting ∧ (head halting).halt = true ∧
    Consistent halting ∧ goes (step halting) (fun t => t.halted && !t.draining && consistentB t) = true := by
  refine ⟨?_, ?_, ?_, ?_, halting_consistent, by decide +kernel⟩
  · unfold FullMemory; decide
  · unfold Active Running; decide
  · unfold HeadReady; decide +kernel
  · decide +kernel
theorem witness_OnlyTwoEventsEndRun :
    (Active halting ∧ goes (step halting) (fun t => t.halted && !t.fatal) = true) ∧
    (Active broken ∧ goes (step broken) (fun t => !t.halted && t.fatal) = true) ∧
    (Active mispredicting ∧ (select mispredicting).isSome = true ∧ goes (step mispredicting) (fun t => !t.halted && !t.fatal) = true) := by
  unfold Active Running; decide +kernel
theorem witness_CommitIdsInOrder : goes (step retiring) (fun t => t.robHead == 1) = true ∧
    goes (step mispredicting) (fun t => t.robHead == 0 && t.flush) = true ∧
    goes (step { retiring with robHead := 31, rob := Bank.put retiring.rob 31 (done .addi 5 7 0 false) }) (fun t => t.robHead == 0) =
      true := by decide +kernel
theorem witness_DrainBitHasTwoWriters :
    (Active mispredicting ∧ Mispredicts mispredicting ∧ isNext (step mispredicting) = true) ∧
    (Active sentinelAtPc ∧ ¬ Mispredicts sentinelAtPc ∧ IssuesWord sentinelAtPc 0x0FF00513 ∧
      goes (step sentinelAtPc) (fun t => t.drainBit && t.draining) = true) ∧
    (Active halting ∧ ¬ Mispredicts halting ∧ halting.drainBit = true ∧ goes (step halting) (fun t => t.drainBit && !t.draining) = true) ∧
    (¬ Active { halting with halted := true } ∧ isNext (step { halting with halted := true }) = true) := by
  unfold Active Running Mispredicts HeadReady HeadIsBranch IssuesWord; decide +kernel
theorem witness_StorePortIsOnlyMemoryWrite :
    (storePort storing = some (0xFFFFFFFE, .word, 0xA1B2C3D4) ∧ isNext (step storing) = true) ∧
    (storePort retiring = none ∧ isNext (step retiring) = true) := by decide +kernel
theorem witness_LoadEligibleIffOlderStoresPass : (entryAt loading ⟨.lsb, 0⟩).op.isLoad = true ∧
    eligible loading .lsb (entryAt loading ⟨.lsb, 0⟩) = true ∧ older loading 0 (entryAt loading ⟨.lsb, 0⟩).dest = true ∧
    (robAt loading 0).op.isStore = true ∧ inAccess (robAt loading 0).addr (robAt loading 0).op.width 0xFFF = true ∧
    eligible loading .lsb (entry .lw 0x1000 0 0xFFFFFFFF 1) = false := by decide +kernel
theorem witness_StoreEligibleIffOlderMemoryOpsResolved : (entryAt storeBehindLoad ⟨.lsb, 0⟩).op.isStore = true ∧
    eligible storeBehindLoad .lsb (entryAt storeBehindLoad ⟨.lsb, 0⟩) = true ∧
    older storeBehindLoad 0 (entryAt storeBehindLoad ⟨.lsb, 0⟩).dest = true ∧ (robAt storeBehindLoad 0).op.isLoad = true ∧
    eligible { storeBehindLoad with rob := Bank.put storeBehindLoad.rob 0 (waiting .lw 6) } .lsb (entry .sb 0x1000 7 3 1) = false := by
  decide +kernel
theorem witness_SelectsOldestEligible : select idle = none ∧ (select producing = some ⟨.rs, 0⟩ ∧ producing.choices = []) ∧
    eligible loading .lsb (entryAt loading ⟨.lsb, 0⟩) = true := by decide +kernel
theorem witness_FireReachesEveryWaiter : Consistent producing ∧ Active producing ∧ ¬ Mispredicts producing ∧
    execute producing = .ok (.fired ⟨⟨.rs, 0⟩, 0, 3, none⟩) ∧
    goes (step producing) (fun t => (entryAt t ⟨.rs, 1⟩).vk == 3 && (entryAt t ⟨.rs, 1⟩).qk == none) = true := by
  refine ⟨producing_consistent, ?_, ?_, ?_, ?_⟩
  · unfold Active Running; decide
  · unfold Mispredicts HeadReady HeadIsBranch; decide +kernel
  · decide +kernel
  · decide +kernel
theorem witness_InvalidFireIsFatal : FullMemory broken ∧ Consistent broken ∧ Active broken ∧ ¬ Mispredicts broken ∧
    select broken = some ⟨.rs, 0⟩ ∧ (entryAt broken ⟨.rs, 0⟩).op = .invalid := by
  refine ⟨?_, broken_consistent, ?_, ?_, ?_, ?_⟩
  · unfold FullMemory; decide
  · unfold Active Running; decide
  · unfold Mispredicts HeadReady HeadIsBranch; decide +kernel
  · decide +kernel
  · decide +kernel
theorem witness_HeadAlwaysProgresses :
    (FullMemory producing ∧ Consistent producing ∧ Active producing ∧ producing.choices = [] ∧ producing.robSize ≠ 0 ∧
      (head producing).busy = true) ∧
    (FullMemory retiring ∧ Consistent retiring ∧ Active retiring ∧ retiring.choices = [] ∧ retiring.robSize ≠ 0 ∧
      (head retiring).busy = false) := by
  refine ⟨⟨rfl, producing_consistent, ?_⟩, ⟨rfl, retiring_consistent, ?_⟩⟩ <;> unfold Active Running <;> decide +kernel
/-- The conditions of `CanIssue` hold in `s`, for either structure. -/
theorem canIssue_of {s : State} {st : Station} (h1 : fetchActs s = true) (h2 : s.robSize ≠ 32)
    (h3 : (freeSlot (stationBank s st)).isSome = true) (h4 : ¬ Mispredicts s) : CanIssue s st := by
  obtain ⟨i, hi⟩ := Option.isSome_iff_exists.1 h3
  exact ⟨h1, h2, ⟨i, by simpa using List.find?_some hi⟩, h4⟩

/-- Both structures have room in `retiring`, whose head retires in the cycle of the issue. -/
theorem retiring_canIssue (st : Station) : CanIssue retiring st := by
  refine canIssue_of (by decide +kernel) (by decide +kernel) ?_ ?_
  · cases st <;> decide +kernel
  · unfold Mispredicts HeadReady HeadIsBranch; decide +kernel

/-- In `retiring` x5 is claimed again in the cycle in which its alias would be cleared; x6 is pending. -/
theorem witness_IssueFillsStationEntry : FullMemory retiring ∧ CanIssue retiring (routeOf (recordOf (.sw 6 5 4)).op) ∧
    goes (exec (.sw 6 5 4) retiring) (fun t => (entryAt t ⟨.lsb, 1⟩).busy && (entryAt t ⟨.lsb, 1⟩).vk == 7 &&
      (entryAt t ⟨.lsb, 1⟩).qj == none) = true :=
  ⟨rfl, retiring_canIssue _, by decide +kernel⟩
theorem witness_IssueFillsRobAndClaims : FullMemory retiring ∧ CanIssue retiring (routeOf (recordOf (.addi 5 6 1)).op) ∧
    goes (exec (.addi 5 6 1) retiring) (fun t => Bank.get t.rat 5 == ⟨true, 2⟩ && (robAt t 2).rd == 5) = true :=
  ⟨rfl, retiring_canIssue _, by decide +kernel⟩
theorem witness_BranchIssueRecordsPrediction : FullMemory retiring ∧ CanIssue retiring .rs ∧
    (recordOf (.beq 5 6 0xFFFFF000)).op.isBranch = true ∧ ¬ JumpRegisterRetires retiring ∧
    goes (exec (.beq 5 6 0xFFFFF000) { retiring with predCtr := 2 }) (fun t => t.pc == 0xFFFFF000 && (robAt t 2).addr == 4) = true ∧
    goes (exec (.beq 5 6 0xFFFFF000) { retiring with predCtr := 1 }) (fun t => t.pc == 4 && (robAt t 2).addr == 0xFFFFF000) = true := by
  refine ⟨rfl, retiring_canIssue _, ?_⟩
  unfold JumpRegisterRetires HeadReady; decide +kernel
theorem witness_IssueSetsNextPc : FullMemory retiring ∧ CanIssue retiring (routeOf (recordOf (.jal 1 0xFFFFE)).op) ∧
    (recordOf (.jal 1 0xFFFFE)).op.isBranch = false ∧ ¬ JumpRegisterRetires retiring ∧
    goes (exec (.jal 1 0xFFFFE) retiring) (fun t => t.pc == 0xFFFFE && (robAt t 2).value == 4) = true := by
  refine ⟨rfl, retiring_canIssue _, ?_⟩
  unfold JumpRegisterRetires HeadReady; decide +kernel
theorem witness_FullStructureStallsIssue :
    (fetchActs { retiring with robSize := 32 } = true ∧ ({ retiring with robSize := 32 } : State).robSize = 32 ∧
      isNext (exec .halt { retiring with robSize := 32 }) = true) ∧
    (fetchActs { retiring with lsb := Vector.replicate 32 (entry .lw 0 0 0 1) } = true ∧
      (∀ k : Slot, (Bank.get (stationBank { retiring with lsb := Vector.replicate 32 (entry .lw 0 0 0 1) } .lsb) k).busy = true)) := by
  decide +kernel
theorem witness_IssueTouchesOnlyItsEntries : Drained idle ∧ FullMemory idle ∧ isNext (exec .halt idle) = true :=
  ⟨idle_drained, rfl, by decide +kernel⟩

/-- The hypotheses of the completion statements: `UpperImmediatesComplete`, `LoadsComplete`, `StoresComplete`,
`ImmediateArithmeticCompletes`, `ImmediateShiftsComplete`, `RegisterArithmeticCompletes`, `BranchesComplete`, `JumpAndLinkCompletes`,
`JumpRegisterCompletes`, `SentinelCompletes`, `DrainedInstructionRefinesSeq`. -/
theorem witness_completion : Drained idle ∧ FullMemory idle ∧ idle.mem.wf = true := ⟨idle_drained, rfl, by decide +kernel⟩

/-- The four cases of a branch: both directions of the counter, both outcomes. -/
theorem witness_BranchesComplete : (Drained idle ∧ FullMemory idle ∧ idle.predCtr.toNat < 2 ∧ readReg idle 5 ≠ readReg idle 6) ∧
    (Drained { idle with predCtr := 2 } ∧ FullMemory { idle with predCtr := 2 } ∧ 2 ≤ ({ idle with predCtr := 2 } : State).predCtr.toNat) ∧
    readReg idle 5 = readReg idle 5 :=
  ⟨⟨idle_drained, rfl, by decide +kernel, by decide +kernel⟩,
    ⟨⟨idle_drained.active, idle_drained.block, idle_drained.draining, idle_drained.size, idle_drained.stations, idle_drained.aliases⟩, rfl,
      by decide⟩, rfl⟩
theorem witness_UnrecognisedWordBecomesFatal : Drained (demo 0x200 [] loadMem) ∧ FullMemory (demo 0x200 [] loadMem) ∧
    fetchWord (demo 0x200 [] loadMem) = .ok 0 ∧ (decodeRecord 0).op = .invalid := by
  refine ⟨⟨?_, by decide, by decide, by decide, ?_, by decide +kernel⟩, rfl, by decide +kernel, by decide⟩
  · unfold Active Running; decide
  · intro p
    obtain ⟨st, i⟩ := p
    cases st <;> revert i <;> decide +kernel

/-- Memory is empty at the pc of `retiring`, whose head retires and whose load fires in the cycle of the issue; then the RS is full. -/
theorem witness_UnrecognisedWordIssue : (FullMemory retiring ∧ fetchWord retiring = .ok 0 ∧ (decodeRecord 0).op = .invalid) ∧
    CanIssue retiring .rs ∧
    goes (step retiring) (fun t => (entryAt t ⟨.rs, 0⟩).op == .invalid && t.robSize == 2 && Bank.get t.rat 6 == ⟨true, 1⟩ && t.pc == 4) = true ∧
    fetchActs { retiring with rs := Vector.replicate 32 (entry .add 0 0 0 1) } = true ∧
    (∀ k : Slot, (Bank.get ({ retiring with rs := Vector.replicate 32 (entry .add 0 0 0 1) } : State).rs k).busy = true) :=
  ⟨⟨rfl, by decide +kernel, by decide⟩, retiring_canIssue _, by decide +kernel, by decide +kernel, by decide +kernel⟩

/-- A commit with an issue, a commit without one, an issue without a commit. -/
theorem witness_RobSizeCountsIssuesAndCommits :
    (Active retiring ∧ ¬ Mispredicts retiring ∧ HeadReady retiring ∧ (head retiring).op ≠ .invalid ∧
      goes (step retiring) (fun t => t.robSize == 2) = true) ∧
    (Active returning ∧ ¬ Mispredicts returning ∧ HeadReady returning ∧ goes (step returning) (fun t => t.robSize == 0) = true) ∧
    (Active producing ∧ ¬ HeadReady producing ∧ goes (step producing) (fun t => t.robSize == 3) = true) := by
  unfold Active Running Mispredicts HeadReady HeadIsBranch; decide +kernel

/-- An image whose first word is the sentinel. -/
def haltImage : Mem := memWrite [] 0 .word 0x0FF00513

theorem haltImage_seq (n : Nat) : seqRun (n + 1) (archOf (State.resetWith Params.standard haltImage)) =
    .halted (archOf (State.resetWith Params.standard haltImage)) := by
  have h : seqStep (archOf (State.resetWith Params.standard haltImage)) = .halted (archOf (State.resetWith Params.standard haltImage)) := by
    decide +kernel
  simp [seqRun, h]

/-- With that image nothing is stored, and the block halts after three cycles. -/
theorem witness_HaltedRunAgreesWithSeq : Params.standard.memBytes = 4294967296 ∧ haltImage.wf = true ∧
    NoSelfModification (archOf (State.resetWith Params.standard haltImage)) ∧
    ∃ t, after 3 (startOf Params.standard haltImage []) = some t ∧ t.halted = true := by
  refine ⟨rfl, by decide +kernel, ?_, ?_⟩
  · intro j k b c base n hjk _ hk
    obtain ⟨m, rfl⟩ : ∃ m, k = m + 1 := ⟨k - 1, by omega⟩
    rw [haltImage_seq] at hk
    simp at hk
  · have h : ((after 3 (startOf Params.standard haltImage [])).map (fun t => t.halted)) = some true := by decide +kernel
    cases e : after 3 (startOf Params.standard haltImage []) with
    | none => rw [e] at h; simp at h
    | some t => rw [e] at h; exact ⟨t, rfl, by simpa using h⟩

end Sys2Proof.Tests
end

section
/-! PROOFS, `00_scope.md`. The outcomes of Commit and Execute as exact conditions on the current copy, what one active cycle does to the
terminal flags and to memory, and the two statements that follow (R12, R73, R186, R301). -/

namespace Sys2Proof.Machine

/-! ### The class of a ROB entry (R292, R301) -/

theorem Op.commitClass_eq_halt_iff (op : Op) : op.commitClass = .halt ↔ op = .halt := by
  cases op <;> simp [Op.commitClass]

theorem Op.commitClass_eq_branch_iff (op : Op) : op.commitClass = .branch ↔ op.isBranch = true := by
  cases op <;> simp [Op.commitClass, Op.isBranch]

/-- An entry retires as a sentinel by its mark or by its operation (log entry 9). -/
theorem RobEntry.commitClass_eq_halt_iff (e : RobEntry) : e.commitClass = .halt ↔ e.halt = true ∨ e.op = .halt := by
  cases h : e.halt <;> simp [RobEntry.commitClass, h, Op.commitClass_eq_halt_iff]

/-- The mark overrides the operation, so a marked entry is no branch. -/
theorem RobEntry.commitClass_eq_branch_iff (e : RobEntry) :
    e.commitClass = .branch ↔ e.halt = false ∧ e.op.isBranch = true := by
  cases h : e.halt <;> simp [RobEntry.commitClass, h, Op.commitClass_eq_branch_iff]

/-! ### The writes of Commit and Issue -/

theorem applyCommit_halted (h : RobId) (s : State) (cm : CommitResult) :
    (applyCommit h s cm).halted = true ↔ s.halted = true ∨ ∃ e, cm = .retired .halt e := by
  cases cm with
  | idle => simp [applyCommit]
  | mispredicted e => simp [applyCommit]
  | retired c e => by_cases hc : c = .halt <;> simp [applyCommit, commitEffect_halted, hc]

theorem applyCommit_mem_of_store (h : RobId) (s : State) (e : RobEntry) :
    (applyCommit h s (.retired .store e)).mem = memWrite s.mem e.addr e.op.width e.value := by
  simp [applyCommit, commitEffect_mem]

theorem applyCommit_mem_of_not_store (h : RobId) (s : State) {cm : CommitResult} (hcm : ∀ e, cm ≠ .retired .store e) :
    (applyCommit h s cm).mem = s.mem := by
  cases cm with
  | idle => rfl
  | mispredicted e => rfl
  | retired c e =>
    have hc : c ≠ .store := fun hc => hcm e (by rw [hc])
    simp [applyCommit, commitEffect_mem, hc]

/-! ### The outcome of Execute -/

/-- Execute raises `fatal` exactly when the selected entry is INVALID (R186). -/
theorem execute_fatal_iff (s : State) :
    execute s = .ok .fatal ↔ ∃ p, select s = some p ∧ (entryAt s p).op = .invalid := by
  constructor
  · intro h
    rcases execute_cases h with ⟨hex, _⟩ | ⟨_, hinvalid⟩ | ⟨_, _, _, _, _, hex⟩
    · cases hex
    · exact hinvalid
    · cases hex
  · rintro ⟨p, hsel, hop⟩
    have hfire : fireEntry s (entryAt s p) = .ok .unrecognised := by simp [fireEntry, hop, alu, Computed.ofAlu]
    simp [execute, hsel, hfire]

/-! ### An active cycle -/

/-- After an active cycle the run has halted exactly when it had before, or a sentinel retired in it (R301). -/
theorem activeCycle_halted {s t : State} {h : Option IssuePlan} (e : activeCycle s h = .next t) :
    t.halted = true ↔ s.halted = true ∨ ∃ b, commit s = .ok (.retired .halt b) := by
  obtain ⟨ex, cm, -, hcm, ⟨b, rfl, rfl⟩ | ⟨-, rfl⟩⟩ := activeCycle_cases e
  · simp [hcm]
  · simp [hcm, applyCommit_halted]

/-- After an active cycle `fatal` is set exactly when it was before, or Execute raises it and no flush discards it (R124, R186). -/
theorem activeCycle_fatal {s t : State} {h : Option IssuePlan} (e : activeCycle s h = .next t) :
    t.fatal = true ↔ s.fatal = true ∨ (execute s = .ok .fatal ∧ ∀ b, commit s ≠ .ok (.mispredicted b)) := by
  obtain ⟨ex, cm, hex, hcm, ⟨b, rfl, rfl⟩ | ⟨hflush, rfl⟩⟩ := activeCycle_cases e
  · simp [hcm]
  · simp [hex, hcm, hflush]

/-- An active cycle in which a store retires writes that store's bytes to memory, and nothing else (R298). -/
theorem activeCycle_mem_of_store {s t : State} {h : Option IssuePlan} (e : activeCycle s h = .next t) {b : RobEntry}
    (hb : commit s = .ok (.retired .store b)) : t.mem = memWrite s.mem b.addr b.op.width b.value := by
  obtain ⟨ex, cm, -, hcm, hcase⟩ := activeCycle_cases e
  obtain rfl : CommitResult.retired .store b = cm := Except.ok.inj (hb.symm.trans hcm)
  obtain ⟨_, hflush, -⟩ | ⟨-, rfl⟩ := hcase
  · cases hflush
  · simp [applyCommit_mem_of_store]

/-- An active cycle in which no store retires leaves memory as it is (R303). -/
theorem activeCycle_mem_of_not_store {s t : State} {h : Option IssuePlan} (e : activeCycle s h = .next t)
    (hb : ∀ b, commit s ≠ .ok (.retired .store b)) : t.mem = s.mem := by
  obtain ⟨ex, cm, -, hcm, ⟨b, -, rfl⟩ | ⟨-, rfl⟩⟩ := activeCycle_cases e
  · simp
  · have hne : ∀ b, cm ≠ .retired .store b := fun b hb' => hb b (hb' ▸ hcm)
    simp [applyCommit_mem_of_not_store _ _ hne]

end Sys2Proof.Machine

namespace Sys2Proof.Safety

open Sys2Proof.Machine

/-! ### The kinds of step -/

theorem active_iff (s : State) : Active s ↔ terminal s = false ∧ s.flush = false := by
  simp [Active, Running, terminal]

/-- A step of an active state is an active cycle, with whatever Fetch hands over. -/
theorem step_of_active {s t : State} (ha : Active s) (h : step s = .next t) : ∃ p, activeCycle s p = .next t := by
  obtain ⟨hterm, hflush⟩ := (active_iff s).1 ha
  obtain ⟨p, hp⟩ := step_is_cycle h
  rcases cycle_cases hp with ⟨hterm', _⟩ | ⟨_, hflush', _⟩ | ⟨_, _, _, hact⟩ | ⟨_, _, _, _, hact⟩
  · simp [hterm] at hterm'
  · simp [hflush] at hflush'
  · exact ⟨none, hact⟩
  · exact ⟨p, hact⟩

/-- A step of any other state leaves everything but the `flush` flag as it is (R126, R127). -/
theorem step_of_not_active {s t : State} (ha : ¬ Active s) (h : step s = .next t) : t = s ∨ t = { s with flush := false } := by
  obtain ⟨p, hp⟩ := step_is_cycle h
  rcases cycle_cases hp with ⟨_, ht⟩ | ⟨_, _, ht⟩ | ⟨hterm, hflush, _⟩ | ⟨hterm, hflush, _⟩
  · exact .inl ht
  · exact .inr ht
  · exact absurd ((active_iff s).2 ⟨hterm, hflush⟩) ha
  · exact absurd ((active_iff s).2 ⟨hterm, hflush⟩) ha

/-! ### The outcome of Commit, in the terms of the statements -/

/-- Commit answers a misprediction exactly when the ready head is a branch with the wrong prediction (R294, R295). -/
theorem commit_mispredicted_iff (s : State) : (∃ b, commit s = .ok (.mispredicted b)) ↔ Mispredicts s := by
  constructor
  · rintro ⟨b, h⟩
    rcases commit_cases h with ⟨hcm, _⟩ | ⟨hsize, hbusy, ⟨_, hclass, hpred⟩ | ⟨_, hcm, _⟩⟩
    · cases hcm
    · exact ⟨⟨hsize, hbusy⟩, (RobEntry.commitClass_eq_branch_iff _).1 hclass, hpred⟩
    · cases hcm
  · rintro ⟨⟨hsize, hbusy⟩, hbranch, hpred⟩
    have hclass : (robAt s s.robHead).commitClass = .branch := (RobEntry.commitClass_eq_branch_iff _).2 hbranch
    have hready : (robAt s s.robHead).busy = false := hbusy
    have hwrong : actualTaken (robAt s s.robHead) ≠ (robAt s s.robHead).pred := hpred
    exact ⟨robAt s s.robHead, by rw [commit, if_neg hsize]; simp [hready, hclass, hwrong]⟩

/-- Commit retires a sentinel exactly when the head is ready and is one (R301, log entry 9). -/
theorem commit_halt_iff (s : State) :
    (∃ b, commit s = .ok (.retired .halt b)) ↔ HeadReady s ∧ ((head s).halt = true ∨ (head s).op = .halt) := by
  constructor
  · rintro ⟨b, h⟩
    rcases commit_cases h with ⟨hcm, _⟩ | ⟨hsize, hbusy, ⟨hcm, _⟩ | ⟨c, hcm, hclass, _⟩⟩
    · cases hcm
    · cases hcm
    · cases hcm
      exact ⟨⟨hsize, hbusy⟩, (RobEntry.commitClass_eq_halt_iff _).1 hclass⟩
  · rintro ⟨⟨hsize, hbusy⟩, hhalt⟩
    have hclass : (robAt s s.robHead).commitClass = .halt := (RobEntry.commitClass_eq_halt_iff _).2 hhalt
    have hready : (robAt s s.robHead).busy = false := hbusy
    exact ⟨robAt s s.robHead, by rw [commit, if_neg hsize]; simp [hready, hclass]⟩

/-! ### The store write port -/

/-- The store write port is driven exactly in an active cycle in which a store retires, with that entry's fields (R7, R298). -/
theorem storePort_eq_some_iff (s : State) (x : Word × Width × Word) :
    storePort s = some x ↔
      Active s ∧ ∃ b, commit s = .ok (.retired .store b) ∧ x = (b.addr, b.op.width, b.value) := by
  by_cases ha : terminal s = false ∧ s.flush = false
  · simp only [storePort, ha.1, ha.2, Bool.or_self, Bool.false_eq_true, if_false, active_iff, and_self, true_and]
    split
    · next b hb => simp [hb, eq_comm]
    · next hne =>
      have hnone : ¬ ∃ b, commit s = .ok (.retired .store b) ∧ x = (b.addr, b.op.width, b.value) :=
        fun ⟨b, hb, _⟩ => hne b hb
      simp [hnone]
  · have hidle : (terminal s || s.flush) = true := by simpa [← Bool.not_eq_false, not_and_or] using ha
    simp [storePort, hidle, active_iff, ha]

end Sys2Proof.Safety

namespace Sys2Proof.Proofs

open Sys2Proof.Machine Sys2Proof.Safety

/-- Settles O30: both flags are down in an active state, so each is up afterwards exactly by the cycle's own event. -/
theorem onlyTwoEventsEndRun : Obligations.OnlyTwoEventsEndRun := by
  intro s t ha h
  obtain ⟨p, hcycle⟩ := step_of_active ha h
  obtain ⟨⟨hhalted, hfatal⟩, -⟩ := ha
  constructor
  · simpa [hhalted, commit_halt_iff] using activeCycle_halted hcycle
  · simpa [hfatal, execute_fatal_iff, ← commit_mispredicted_iff] using activeCycle_fatal hcycle

/-- Settles O32: the port is driven exactly when a store retires, and no other cycle writes memory. -/
theorem storePortIsOnlyMemoryWrite : Obligations.StorePortIsOnlyMemoryWrite := by
  intro s t h
  constructor
  · intro hport
    by_cases ha : Active s
    · obtain ⟨p, hcycle⟩ := step_of_active ha h
      refine activeCycle_mem_of_not_store hcycle fun b hb => ?_
      have hdriven := (storePort_eq_some_iff s _).2 ⟨ha, b, hb, rfl⟩
      simp [hport] at hdriven
    · obtain rfl | rfl := step_of_not_active ha h <;> rfl
  · intro a n v hport
    obtain ⟨ha, b, hb, hx⟩ := (storePort_eq_some_iff s _).1 hport
    obtain ⟨p, hcycle⟩ := step_of_active ha h
    cases hx
    exact activeCycle_mem_of_store hcycle hb

end Sys2Proof.Proofs
end

section
/-! PROOFS, `10_state.md`. The ROB window: ages, the tail and the youngest entry, and how they move when the head retires or an
instruction is issued (R11, R30, R144, R291). -/

namespace Sys2Proof.Machine

/-! ### Ages (R11, R30) -/

@[simp] theorem age_head (s : State) : age s s.robHead = 0 := by simp [age]

/-- Two ids of the same age are the same id. -/
theorem age_inj {s : State} {j k : RobId} (h : age s j = age s k) : j = k := by
  simp only [age] at h
  bv_omega

theorem age_eq_zero_iff (s : State) (k : RobId) : age s k = 0 ↔ k = s.robHead :=
  ⟨fun h => age_inj (h.trans (age_head s).symm), fun h => h ▸ age_head s⟩

theorem occupied_iff (s : State) (k : RobId) : occupied s k = true ↔ age s k < s.robSize.toNat := by simp [occupied]

theorem older_iff (s : State) (k d : RobId) :
    older s k d = true ↔ occupied s k = true ∧ age s k < age s d := by simp [older]

theorem robSize_ne_zero_iff (s : State) : s.robSize ≠ 0 ↔ 0 < s.robSize.toNat := by
  constructor <;> intro h <;> bv_omega

/-- While the ROB is not empty its head is in flight. -/
theorem occupied_head {s : State} (h : s.robSize ≠ 0) : occupied s s.robHead = true := by
  rw [occupied_iff, age_head]
  exact (robSize_ne_zero_iff s).1 h

theorem not_occupied_of_empty {s : State} (h : s.robSize = 0) (k : RobId) : occupied s k = false := by
  simp [occupied, h]

/-- With one entry in flight, only the head is. -/
theorem eq_head_of_occupied {s : State} (h : s.robSize = 1) {k : RobId} (hk : occupied s k = true) : k = s.robHead := by
  rw [occupied_iff, h] at hk
  exact (age_eq_zero_iff s k).1 (Nat.lt_one_iff.1 hk)

/-! ### The tail and the youngest entry (R30) -/

theorem tail_of_empty {s : State} (h : s.robSize = 0) : tail s = s.robHead := by simp [tail, h]

/-- The tail comes after everything in flight. -/
theorem age_tail {s : State} (h : s.robSize.toNat < 32) : age s (tail s) = s.robSize.toNat := by
  simp only [age, tail]
  bv_omega

theorem not_occupied_tail {s : State} (h : s.robSize.toNat < 32) : occupied s (tail s) = false := by
  simp [occupied, age_tail h]

theorem ne_tail_of_occupied {s : State} (h : s.robSize.toNat < 32) {k : RobId} (hk : occupied s k = true) : k ≠ tail s := by
  rintro rfl
  simp [not_occupied_tail h] at hk

theorem age_youngest {s : State} (h0 : s.robSize ≠ 0) (h : s.robSize.toNat ≤ 32) :
    age s (Safety.youngest s) = s.robSize.toNat - 1 := by
  simp only [age, Safety.youngest, tail]
  bv_omega

/-- When the head is also the youngest entry, it is the only one in flight. -/
theorem robSize_eq_one_of_head_youngest {s : State} (h0 : s.robSize ≠ 0) (h : s.robSize.toNat ≤ 32)
    (hy : s.robHead = Safety.youngest s) : s.robSize = 1 := by
  have hage := age_youngest h0 h
  rw [← hy, age_head] at hage
  bv_omega

theorem robSize_lt_of_not_full {s : State} (h : s.robSize.toNat ≤ 32) (hf : robFull s = false) : s.robSize.toNat < 32 := by
  simp only [robFull, beq_eq_false_iff_ne] at hf
  bv_omega

/-! ### The window after a retirement (R291) -/

section
variable {s t : State}

theorem robSize_retire (hsize : t.robSize = s.robSize - 1) (h0 : s.robSize ≠ 0) : t.robSize.toNat + 1 = s.robSize.toNat := by
  rw [hsize]
  bv_omega

theorem age_retire (hhead : t.robHead = s.robHead + 1) {k : RobId} (hk : k ≠ s.robHead) : age t k + 1 = age s k := by
  simp only [age, hhead]
  bv_omega

/-- The head leaves the window, and nothing else does. -/
theorem occupied_retire (hhead : t.robHead = s.robHead + 1) (hsize : t.robSize = s.robSize - 1) (h0 : s.robSize ≠ 0)
    (h : s.robSize.toNat ≤ 32) (k : RobId) : occupied t k = true ↔ occupied s k = true ∧ k ≠ s.robHead := by
  have hsz := robSize_retire hsize h0
  rw [occupied_iff, occupied_iff]
  by_cases hk : k = s.robHead
  · have hage : age t k = 31 := by
      simp only [age, hhead, hk]
      bv_omega
    simp only [hk, ne_eq, not_true_eq_false, and_false, iff_false]
    rw [← hk, hage]
    omega
  · have hage := age_retire hhead hk
    simp only [ne_eq, hk, not_false_eq_true, and_true]
    omega

theorem tail_retire (hhead : t.robHead = s.robHead + 1) (hsize : t.robSize = s.robSize - 1) : tail t = tail s := by
  simp only [tail, hhead, hsize]
  bv_omega

theorem youngest_retire (hhead : t.robHead = s.robHead + 1) (hsize : t.robSize = s.robSize - 1) :
    Safety.youngest t = Safety.youngest s := by
  simp only [Safety.youngest, tail_retire hhead hsize]

/-! ### The window after an issue (R144) -/

theorem robSize_issue (hsize : t.robSize = s.robSize + 1) (h : s.robSize.toNat < 32) : t.robSize.toNat = s.robSize.toNat + 1 := by
  rw [hsize]
  bv_omega

theorem age_of_same_head (hhead : t.robHead = s.robHead) (k : RobId) : age t k = age s k := by simp only [age, hhead]

theorem occupied_of_same_window (hhead : t.robHead = s.robHead) (hsize : t.robSize = s.robSize) (k : RobId) :
    occupied t k = occupied s k := by
  simp only [occupied, hsize, age_of_same_head hhead]

/-- The tail enters the window, and nothing else does. -/
theorem occupied_issue (hhead : t.robHead = s.robHead) (hsize : t.robSize = s.robSize + 1) (h : s.robSize.toNat < 32) (k : RobId) :
    occupied t k = true ↔ occupied s k = true ∨ k = tail s := by
  have hk : age s k = s.robSize.toNat ↔ k = tail s := by
    rw [← age_tail h]
    exact ⟨age_inj, congrArg _⟩
  rw [occupied_iff, occupied_iff, age_of_same_head hhead, robSize_issue hsize h, ← hk]
  omega

theorem youngest_issue (hhead : t.robHead = s.robHead) (hsize : t.robSize = s.robSize + 1) :
    Safety.youngest t = tail s := by
  simp only [Safety.youngest, tail, hsize, hhead]
  bv_omega

end

end Sys2Proof.Machine
end

section
/-! PROOFS, `10_state.md`. What a step hands to Issue, and what the writes of each stage do to the entries, the ROB and the Alias
Table (R128, R129, R149 to R151, R177 to R180, R300). -/

namespace Sys2Proof.Machine

open Safety (Active)

/-! ### The operations (R98, R292) -/

theorem Op.commitClass_eq_jumpRegister_iff (op : Op) : op.commitClass = .jumpRegister ↔ op = .jalr := by
  cases op <;> simp [Op.commitClass]

theorem Op.commitClass_eq_never_iff (op : Op) : op.commitClass = .never ↔ op = .invalid := by
  cases op <;> simp [Op.commitClass]

/-- The operations that write a register are those whose commit clears an Alias Table entry (R98, R292, R300). -/
theorem Op.writesReg_iff (op : Op) :
    op.writesReg = true ↔ op.commitClass = .register ∨ op.commitClass = .jumpRegister ∨ op.commitClass = .halt := by
  cases op <;> simp [Op.commitClass, Op.writesReg, Op.isBranch, Op.isStore]

theorem Op.isMem_iff (op : Op) : op.isMem = true ↔ op.isLoad = true ∨ op.isStore = true := by simp [Op.isMem]

/-- An entry retires as a jump-register exactly when it is an unmarked JALR. -/
theorem RobEntry.commitClass_eq_jumpRegister_iff (e : RobEntry) :
    e.commitClass = .jumpRegister ↔ e.halt = false ∧ e.op = .jalr := by
  cases h : e.halt <;> simp [RobEntry.commitClass, h, Op.commitClass_eq_jumpRegister_iff]

theorem RobEntry.commitClass_eq_never_iff (e : RobEntry) : e.commitClass = .never ↔ e.halt = false ∧ e.op = .invalid := by
  cases h : e.halt <;> simp [RobEntry.commitClass, h, Op.commitClass_eq_never_iff]

theorem routeOf_eq_lsb_iff (op : Op) : routeOf op = .lsb ↔ op.isMem = true := by
  cases h : op.isMem <;> simp [routeOf, h]

/-! ### The plans of Issue (R141, R149) -/

/-- What Fetch and Decode hand to Issue when `w` is the word at the pc (R140, R156). -/
def wordPlan (s : State) (w : Word) : IssuePlan :=
  match decodeWord w with
  | .ok i => planOf i s
  | .error _ => invalidPlan s.pc

theorem planOf_op (i : Instr) (s : State) : (planOf i s).op = (recordOf i).op := by
  cases i <;> rfl

/-- The mark of a plan is that of the sentinel (R141). -/
theorem planOf_halt_iff (i : Instr) (s : State) : (planOf i s).halt = true ↔ (planOf i s).op = .halt := by
  cases i <;> simp [planOf, recordOf, upperPlan, pcRelPlan, regImmPlan, regRegPlan, jalPlan, jalrPlan, branchPlan, haltPlan, plainPlan]

theorem wordPlan_op (s : State) (w : Word) : (wordPlan s w).op = (decodeRecord w).op := by
  unfold wordPlan decodeRecord
  cases decodeWord w with
  | ok i => exact planOf_op i s
  | error r => rfl

theorem wordPlan_halt_iff (s : State) (w : Word) : (wordPlan s w).halt = true ↔ (wordPlan s w).op = .halt := by
  unfold wordPlan
  cases decodeWord w with
  | ok i => exact planOf_halt_iff i s
  | error r => simp [invalidPlan, plainPlan, invalidRecord]

/-! ### The steps of an active state (R128, R129) -/

theorem fetchActs_iff (s : State) : fetchActs s = true ↔ Active s ∧ s.block = false ∧ s.draining = false := by
  simp [fetchActs, Safety.active_iff, and_assoc]

theorem cycle_of_active {s : State} (ha : Active s) (h : Option IssuePlan) :
    cycle s h = if s.block || s.draining then activeCycle s none else activeCycle s h := by
  obtain ⟨hterm, hflush⟩ := (Safety.active_iff s).1 ha
  simp [cycle, hterm, hflush]

theorem cycle_of_fetchActs {s : State} (hf : fetchActs s = true) (h : Option IssuePlan) : cycle s h = activeCycle s h := by
  obtain ⟨ha, hblock, hdrain⟩ := (fetchActs_iff s).1 hf
  simp [cycle_of_active ha, hblock, hdrain]

/-- While Fetch is stopped the stages act and nothing is handed over (R128). -/
theorem step_of_not_fetchActs {s : State} (ha : Active s) (hf : fetchActs s = false) : step s = activeCycle s none := by
  have hstop : ¬ (s.block = false ∧ s.draining = false) := fun h => by simp [(fetchActs_iff s).2 ⟨ha, h⟩] at hf
  have hcycle : step s = cycle s none := by simp [step, hf]
  rw [hcycle, cycle_of_active ha, ite_self]

/-- When Fetch acts, the plan of the word at the pc is handed over (R129, R140, R156). -/
theorem step_of_fetchWord {s : State} {w : Word} (hf : fetchActs s = true) (hw : fetchWord s = .ok w) :
    step s = activeCycle s (some (wordPlan s w)) := by
  rw [← cycle_of_fetchActs hf, wordPlan]
  rcases step_cases s with ⟨hf', _⟩ | ⟨_, r, hw', _⟩ | ⟨_, w', i, hw', hd, e⟩ | ⟨_, w', r, hw', hd, e⟩
  · simp [hf] at hf'
  · simp [hw] at hw'
  · cases hw.symm.trans hw'
    rw [e, exec_eq_cycle, hd]
  · cases hw.symm.trans hw'
    rw [e, hd, execInvalid]

/-- The two kinds of step of an active state. -/
theorem step_active_cases {s t : State} (ha : Active s) (h : step s = .next t) :
    (fetchActs s = false ∧ activeCycle s none = .next t) ∨
    (∃ w, fetchActs s = true ∧ fetchWord s = .ok w ∧ activeCycle s (some (wordPlan s w)) = .next t) := by
  cases hf : fetchActs s with
  | false => exact .inl ⟨rfl, step_of_not_fetchActs ha hf ▸ h⟩
  | true =>
    cases hw : fetchWord s with
    | error r => simp [step, hf, hw] at h
    | ok w => exact .inr ⟨w, rfl, rfl, step_of_fetchWord hf hw ▸ h⟩

/-! ### The writes of a fire (R177, R178, R180) -/

@[simp] theorem wakeEntry_busy (d : RobId) (v : Word) (e : StationEntry) : (wakeEntry d v e).busy = e.busy := by
  unfold wakeEntry; split <;> rfl
@[simp] theorem wakeEntry_op (d : RobId) (v : Word) (e : StationEntry) : (wakeEntry d v e).op = e.op := by
  unfold wakeEntry; split <;> rfl
@[simp] theorem wakeEntry_dest (d : RobId) (v : Word) (e : StationEntry) : (wakeEntry d v e).dest = e.dest := by
  unfold wakeEntry; split <;> rfl

/-- A broadcast of `d` clears the tags that name `d` and no other. -/
theorem clearTag_eq_some_iff (tag : Option RobId) (d q : RobId) :
    (if tag = some d then none else tag) = some q ↔ tag = some q ∧ q ≠ d := by
  by_cases h : tag = some d
  · simp [h, eq_comm]
  · rw [if_neg h]
    exact ⟨fun hq => ⟨hq, fun e => h (e ▸ hq)⟩, And.left⟩

/-- The tags of a busy entry after a broadcast (R180). -/
theorem wakeEntry_tag_iff {d : RobId} {v : Word} {e : StationEntry} (he : e.busy = true) (q : RobId) :
    ((wakeEntry d v e).qj = some q ∨ (wakeEntry d v e).qk = some q) ↔ (e.qj = some q ∨ e.qk = some q) ∧ q ≠ d := by
  simp only [wakeEntry, he, if_true, clearTag_eq_some_iff, or_and_right]

theorem entryAt_applyFire_ne {f : Fire} {p : Pick} (s : State) (h : p ≠ f.pick) :
    entryAt (applyFire f s) p = wakeEntry f.dest f.value (entryAt s p) := by
  rw [entryAt_applyFire, if_neg h]

/-- A fire frees its slot and no other. -/
theorem entryAt_applyFire_busy_iff (f : Fire) (s : State) (p : Pick) :
    (entryAt (applyFire f s) p).busy = true ↔ p ≠ f.pick ∧ (entryAt s p).busy = true := by
  rw [entryAt_applyFire]
  by_cases h : p = f.pick <;> simp [h]

@[simp] theorem robAt_applyFire_op (f : Fire) (s : State) (k : RobId) : (robAt (applyFire f s) k).op = (robAt s k).op := by
  rw [robAt_applyFire]; split <;> rfl
@[simp] theorem robAt_applyFire_rd (f : Fire) (s : State) (k : RobId) : (robAt (applyFire f s) k).rd = (robAt s k).rd := by
  rw [robAt_applyFire]; split <;> rfl
@[simp] theorem robAt_applyFire_halt (f : Fire) (s : State) (k : RobId) : (robAt (applyFire f s) k).halt = (robAt s k).halt := by
  rw [robAt_applyFire]; split <;> rfl

/-- A fire makes its ROB entry ready and no other. -/
theorem robAt_applyFire_busy_iff (f : Fire) (s : State) (k : RobId) :
    (robAt (applyFire f s) k).busy = true ↔ k ≠ f.dest ∧ (robAt s k).busy = true := by
  rw [robAt_applyFire]
  by_cases h : k = f.dest <;> simp [h, completeRob]

/-! ### The writes of Execute -/

@[simp] theorem robAt_applyExecute_op (s : State) (ex : ExecResult) (k : RobId) : (robAt (applyExecute s ex) k).op = (robAt s k).op := by
  cases ex with
  | idle => rfl
  | fatal => rfl
  | fired f => exact robAt_applyFire_op f s k

@[simp] theorem robAt_applyExecute_rd (s : State) (ex : ExecResult) (k : RobId) : (robAt (applyExecute s ex) k).rd = (robAt s k).rd := by
  cases ex with
  | idle => rfl
  | fatal => rfl
  | fired f => exact robAt_applyFire_rd f s k

/-- A busy ROB entry that the cycle does not broadcast stays busy. -/
theorem robAt_applyExecute_busy {s : State} {ex : ExecResult} {k : RobId} (hb : (robAt s k).busy = true)
    (hcdb : ∀ c, ex.cdb = some c → c.id ≠ k) : (robAt (applyExecute s ex) k).busy = true := by
  cases ex with
  | idle => exact hb
  | fatal => exact hb
  | fired f => exact (robAt_applyFire_busy_iff f s k).2 ⟨(hcdb _ rfl).symm, hb⟩

/-- No slot becomes busy by Execute. -/
theorem entryAt_applyExecute_not_busy {s : State} {p : Pick} (ex : ExecResult) (hb : (entryAt s p).busy = false) :
    (entryAt (applyExecute s ex) p).busy = false := by
  cases ex with
  | idle => exact hb
  | fatal => exact hb
  | fired f =>
    have hfreed := entryAt_applyFire_busy_iff f s p
    simpa [applyExecute, hb] using hfreed

/-! ### The writes of a retirement (R291, R300) -/

@[simp] theorem entryAt_retire (n : State) (h : RobId) (c : CommitClass) (e : RobEntry) (p : Pick) :
    entryAt (retireHead (commitEffect n h c e)) p = entryAt n p := by
  obtain ⟨st, i⟩ := p
  cases st <;> simp [entryAt, stationBank]

@[simp] theorem robAt_retire (n : State) (h : RobId) (c : CommitClass) (e : RobEntry) (k : RobId) :
    robAt (retireHead (commitEffect n h c e)) k = robAt n k := by simp [robAt]

@[simp] theorem entryAt_applyCommit (h : RobId) (n : State) (cm : CommitResult) (p : Pick) :
    entryAt (applyCommit h n cm) p = entryAt n p := by
  obtain ⟨st, i⟩ := p
  cases st <;> simp [entryAt, stationBank]

@[simp] theorem robAt_applyCommit (h : RobId) (n : State) (cm : CommitResult) (k : RobId) :
    robAt (applyCommit h n cm) k = robAt n k := by simp [robAt]

/-! ### The writes of Issue (R149 to R151) -/

section
variable (s n : State) (cdb : Option Cdb) (red : Bool) (p : IssuePlan) (i : Slot)

theorem entryAt_applyIssue (q : Pick) :
    entryAt (applyIssue s n cdb red p i) q = if q = ⟨routeOf p.op, i⟩ then issuedEntry s cdb p else entryAt n q := by
  obtain ⟨st, j⟩ := q
  by_cases hj : i = j
  · cases st <;> cases h : routeOf p.op <;> simp [entryAt, stationBank, placeEntry, h, hj]
  · cases st <;> cases h : routeOf p.op <;> simp [entryAt, stationBank, placeEntry, h, hj, Ne.symm hj, Bank.get_put]

theorem robAt_applyIssue (k : RobId) :
    robAt (applyIssue s n cdb red p i) k = if k = tail s then issuedRob s p else robAt n k := by
  simp only [robAt, applyIssue_rob, Bank.get_put, eq_comm]

@[simp] theorem robAt_applyIssue_tail : robAt (applyIssue s n cdb red p i) (tail s) = issuedRob s p := by
  simp [robAt_applyIssue]

end

/-- An Alias Table entry after a claim (R150). -/
theorem get_claim (rat : Bank RatEntry) (p : IssuePlan) (b : RobId) (r : Reg) :
    Bank.get (claim rat p b) r =
      if p.op.writesReg = true ∧ p.rd ≠ 0 ∧ p.rd = r then { busy := true, id := b } else Bank.get rat r := by
  unfold claim
  by_cases hc : p.op.writesReg = true ∧ p.rd ≠ 0
  · rw [if_pos hc, Bank.get_put]
    simp only [hc.1, ne_eq, hc.2, not_false_eq_true, true_and]
  · rw [if_neg hc, if_neg fun h => hc ⟨h.1, h.2.1⟩]

/-- A pending tag comes from a busy Alias Table entry whose producer is busy and does not broadcast in this cycle (R146, R148). -/
theorem capture_tag {s : State} {cdb : Option Cdb} {free : Word} {src : Source} {q : RobId}
    (h : (capture s cdb free src).tag = some q) :
    ∃ r : Reg, r ≠ 0 ∧ (Bank.get s.rat r).busy = true ∧ (Bank.get s.rat r).id = q ∧ (robAt s q).busy = true ∧
      ∀ c, cdb = some c → c.id ≠ q := by
  cases src with
  | known v => simp [capture] at h
  | reg r =>
    simp only [capture, resolve] at h
    split at h
    · simp at h
    next hr =>
    split at h
    · simp at h
    next halias =>
    split at h
    · simp at h
    next hbusy =>
    simp only [Bool.not_eq_false] at halias hbusy
    cases cdb with
    | none =>
      obtain rfl : (Bank.get s.rat r).id = q := by simpa using h
      exact ⟨r, hr, halias, rfl, hbusy, by simp⟩
    | some c =>
      by_cases hid : c.id = (Bank.get s.rat r).id
      · simp [hid] at h
      · obtain rfl : (Bank.get s.rat r).id = q := by simpa [hid] using h
        exact ⟨r, hr, halias, rfl, hbusy, by simpa using hid⟩

/-- The same for either operand of an issued entry. -/
theorem issuedEntry_tag {s : State} {cdb : Option Cdb} {p : IssuePlan} {q : RobId}
    (h : (issuedEntry s cdb p).qj = some q ∨ (issuedEntry s cdb p).qk = some q) :
    ∃ r : Reg, r ≠ 0 ∧ (Bank.get s.rat r).busy = true ∧ (Bank.get s.rat r).id = q ∧ (robAt s q).busy = true ∧
      ∀ c, cdb = some c → c.id ≠ q := by
  obtain h | h := h <;> exact capture_tag h

end Sys2Proof.Machine
end

section
/-! PROOFS, `10_state.md`. The consistency of the scheduler (R41, R42): it holds of every state with nothing in flight, a fire, a
retirement and an issue each keep it, and so does every step. -/

namespace Sys2Proof.Safety

open Sys2Proof.Machine

/-! ### Nothing in flight -/

/-- With nothing in flight and no flag set nothing is left that could be inconsistent. -/
theorem consistent_of_empty {s : State} (hsize : s.robSize = 0) (hentry : ∀ p : Pick, (entryAt s p).busy = false)
    (halias : ∀ r : Reg, (Bank.get s.rat r).busy = false) (hblock : s.block = false) (hdrain : s.draining = false) :
    Consistent s where
  size_le := by simp [hsize]
  alias_zero := halias 0
  entry_live p := by simp [hentry]
  entry_unique p q := by simp [hentry]
  rob_live k := by simp [not_occupied_of_empty hsize]
  tag_live p q := by simp [hentry]
  alias_youngest r _ k := by simp [halias, YoungestPromise, Promises, not_occupied_of_empty hsize]
  alias_resolved r _ := by simp [halias, Promises, not_occupied_of_empty hsize]
  halt_mark k := by simp [not_occupied_of_empty hsize]
  block_jalr := by simp [hblock]
  draining_halt := by simp [hdrain]
  jalr_youngest k := by simp [not_occupied_of_empty hsize]
  halt_youngest k := by simp [not_occupied_of_empty hsize]
  flush_empty _ := ⟨hsize, hblock, hdrain⟩

/-- In a consistent state with nothing in flight every register is resolved. -/
theorem Consistent.alias_of_empty {s : State} (hc : Consistent s) (hsize : s.robSize = 0) {r : Reg} (hr : r ≠ 0) :
    (Bank.get s.rat r).busy = false :=
  (hc.alias_resolved r hr).2 fun k hk => by simp [Promises, not_occupied_of_empty hsize] at hk

/-- Nothing of R41 and R42 speaks of the `fatal` flag. -/
theorem Consistent.raiseFatal {s : State} (hc : Consistent s) : Consistent (raiseFatal s) where
  __ := hc

/-- The end of the flush cycle (R127) keeps what holds in it. -/
theorem Consistent.clearFlush {s : State} (hc : Consistent s) : Consistent { s with flush := false } where
  __ := hc
  flush_empty h := by cases h

/-- A misprediction leaves nothing in flight (R295). -/
theorem consistent_flushState (s : State) (e : RobEntry) : Consistent (flushState s e) := by
  refine consistent_of_empty rfl ?_ (by simp) rfl (by simp [State.draining])
  rintro ⟨st, i⟩
  cases st <;> simp [entryAt, stationBank]

/-! ### Promises (R42 (c)) -/

/-- What a ROB entry promises is its operation and its `rd`, while it is in flight. -/
theorem promises_congr {s t : State} (hocc : ∀ k, occupied t k = occupied s k) (hop : ∀ k, (robAt t k).op = (robAt s k).op)
    (hrd : ∀ k, (robAt t k).rd = (robAt s k).rd) (r : Reg) (k : RobId) : Promises t r k ↔ Promises s r k := by
  simp [Promises, hocc, hop, hrd]

/-- A busy Alias Table entry names the youngest in-flight producer of its register. -/
theorem Consistent.alias_names {s : State} (hc : Consistent s) {r : Reg} (hr : r ≠ 0) (hb : (Bank.get s.rat r).busy = true) :
    YoungestPromise s r (Bank.get s.rat r).id :=
  (hc.alias_youngest r hr _).1 ⟨hb, rfl⟩

/-! ### A fire (R176 to R180) -/

/-- A fire of a busy entry keeps the scheduler consistent: the entry and its ROB entry stop being busy together, and every tag that
waited for it is cleared. -/
theorem Consistent.fire {s : State} (hc : Consistent s) {f : Fire} (hb : (entryAt s f.pick).busy = true)
    (hdest : f.dest = (entryAt s f.pick).dest) : Consistent (applyFire f s) := by
  have hocc : ∀ k, occupied (applyFire f s) k = occupied s k := occupied_of_same_window rfl rfl
  have hprom := promises_congr hocc (robAt_applyFire_op f s) (robAt_applyFire_rd f s)
  have hother : ∀ q : Pick, q ≠ f.pick → (entryAt s q).busy = true → (entryAt s q).dest ≠ f.dest :=
    fun q hq hqb e => hq (hc.entry_unique q f.pick hqb hb (e.trans hdest))
  refine
    { hc with
      entry_live := ?entry_live, entry_unique := ?entry_unique, rob_live := ?rob_live, tag_live := ?tag_live,
      alias_youngest := ?alias_youngest, alias_resolved := ?alias_resolved, halt_mark := ?halt_mark,
      block_jalr := ?block_jalr, draining_halt := ?draining_halt, jalr_youngest := ?jalr_youngest,
      halt_youngest := ?halt_youngest }
  case entry_live =>
    intro q hq
    obtain ⟨hne, hqb⟩ := (entryAt_applyFire_busy_iff f s q).1 hq
    obtain ⟨hlive, hrob, hop, hroute⟩ := hc.entry_live q hqb
    simp only [entryAt_applyFire_ne s hne, wakeEntry_dest, wakeEntry_op, hocc, robAt_applyFire_op, robAt_applyFire_busy_iff]
    exact ⟨hlive, ⟨hother q hne hqb, hrob⟩, hop, hroute⟩
  case entry_unique =>
    intro p q hp hq e
    obtain ⟨hpne, hpb⟩ := (entryAt_applyFire_busy_iff f s p).1 hp
    obtain ⟨hqne, hqb⟩ := (entryAt_applyFire_busy_iff f s q).1 hq
    simp only [entryAt_applyFire_ne s hpne, entryAt_applyFire_ne s hqne, wakeEntry_dest] at e
    exact hc.entry_unique p q hpb hqb e
  case rob_live =>
    intro k hk hkb
    obtain ⟨hne, hkb⟩ := (robAt_applyFire_busy_iff f s k).1 hkb
    obtain ⟨q, hqb, rfl⟩ := hc.rob_live k (hocc k ▸ hk) hkb
    have hq : q ≠ f.pick := fun e => hne (by rw [hdest, e])
    exact ⟨q, (entryAt_applyFire_busy_iff f s q).2 ⟨hq, hqb⟩, by rw [entryAt_applyFire_ne s hq, wakeEntry_dest]⟩
  case tag_live =>
    intro p q hp htag
    obtain ⟨hne, hpb⟩ := (entryAt_applyFire_busy_iff f s p).1 hp
    rw [entryAt_applyFire_ne s hne] at htag ⊢
    obtain ⟨htag, hq⟩ := (wakeEntry_tag_iff hpb q).1 htag
    obtain ⟨holder, hbusy, hwrites, hrd⟩ := hc.tag_live p q hpb htag
    exact ⟨by rw [wakeEntry_dest]; exact holder, (robAt_applyFire_busy_iff f s q).2 ⟨hq, hbusy⟩, by simpa using hwrites, by simpa using hrd⟩
  case alias_youngest =>
    intro r hr k
    simp only [YoungestPromise, hprom]
    exact hc.alias_youngest r hr k
  case alias_resolved =>
    intro r hr
    simp only [hprom]
    exact hc.alias_resolved r hr
  case halt_mark =>
    intro k hk
    simpa using hc.halt_mark k (hocc k ▸ hk)
  case block_jalr =>
    intro hblock
    obtain ⟨hsize, hop⟩ := hc.block_jalr hblock
    exact ⟨hsize, (robAt_applyFire_op f s _).trans hop⟩
  case draining_halt =>
    intro hdrain
    obtain ⟨hsize, hhalt⟩ := hc.draining_halt hdrain
    exact ⟨hsize, (robAt_applyFire_halt f s _).trans hhalt⟩
  case jalr_youngest =>
    intro k hk hop
    exact hc.jalr_youngest k (hocc k ▸ hk) (by simpa using hop)
  case halt_youngest =>
    intro k hk hhalt
    exact hc.halt_youngest k (hocc k ▸ hk) (by simpa using hhalt)

/-- Execute keeps the scheduler consistent, whatever it answers. -/
theorem Consistent.applyExecute {s : State} (hc : Consistent s) {ex : ExecResult} (hex : execute s = .ok ex) :
    Consistent (applyExecute s ex) := by
  rcases execute_cases hex with ⟨rfl, _⟩ | ⟨rfl, _⟩ | ⟨p, v, t, hsel, _, rfl⟩
  · exact hc
  · exact hc.raiseFatal
  · exact hc.fire (eligible_ready (select_eligible hsel)).1 rfl

/-! ### A retirement (R291 to R301) -/

section
variable {n : State}

/-- In a consistent state only the sentinel retires as one. -/
theorem Consistent.head_class_halt (hc : Consistent n) (h0 : n.robSize ≠ 0) :
    (head n).commitClass = .halt ↔ (head n).halt = true := by
  rw [RobEntry.commitClass_eq_halt_iff, head, ← hc.halt_mark _ (occupied_head h0), or_self]

/-- In a consistent state a JALR carries no mark, so it retires as a jump-register. -/
theorem Consistent.head_class_jumpRegister (hc : Consistent n) (h0 : n.robSize ≠ 0) :
    (head n).commitClass = .jumpRegister ↔ (head n).op = .jalr := by
  rw [RobEntry.commitClass_eq_jumpRegister_iff, and_iff_right_iff_imp]
  intro hop
  rw [← Bool.not_eq_true, head, hc.halt_mark _ (occupied_head h0)]
  simp [show (robAt n n.robHead).op = .jalr from hop]

/-- A head that promises a register clears that register's Alias Table entry if it still names the head (R300). -/
theorem commitEffect_rat_of_writesReg (hw : (head n).op.writesReg = true) :
    (commitEffect n n.robHead (head n).commitClass (head n)).rat = clearClaim n.rat (head n).rd n.robHead := by
  rw [commitEffect_rat, if_pos]
  cases hh : (head n).halt with
  | true => simp [RobEntry.commitClass, hh]
  | false => simpa [RobEntry.commitClass, hh] using (Op.writesReg_iff _).1 hw

/-- The retirement of the head resolves the aliases that name it, and no other (R42 (c), R300). -/
theorem Consistent.get_rat_retire (hc : Consistent n) {r : Reg} (hr : r ≠ 0) :
    Bank.get (commitEffect n n.robHead (head n).commitClass (head n)).rat r =
      if (Bank.get n.rat r).busy = true ∧ (Bank.get n.rat r).id = n.robHead then { Bank.get n.rat r with busy := false }
      else Bank.get n.rat r := by
  by_cases hnames : (Bank.get n.rat r).busy = true ∧ (Bank.get n.rat r).id = n.robHead
  · obtain ⟨⟨_, hwrites, hrd⟩, _⟩ := (hc.alias_youngest r hr _).1 hnames
    rw [if_pos hnames, commitEffect_rat_of_writesReg hwrites, get_clearClaim, head, hrd, if_pos ⟨hr, hnames.1, hnames.2, rfl⟩]
  · rw [if_neg hnames, commitEffect_rat]
    split
    · rw [get_clearClaim, if_neg]
      rintro ⟨_, hb, hid, rfl⟩
      exact hnames ⟨hb, hid⟩
    · rfl

/-- Every retirement leaves entry 0 of the Alias Table alone (R21). -/
theorem get_rat_zero_commitEffect (m : State) (h : RobId) (c : CommitClass) (e : RobEntry) :
    Bank.get (commitEffect m h c e).rat 0 = Bank.get m.rat 0 := by
  rw [commitEffect_rat]
  split
  · rw [get_clearClaim, if_neg]
    rintro ⟨hrd, _, _, hrd'⟩
    exact hrd hrd'
  · rfl

/-- The state after the retirement of the head in its class. -/
def retired (n : State) : State := retireHead (commitEffect n n.robHead (head n).commitClass (head n))

@[simp] theorem robAt_retired (n : State) (k : RobId) : robAt (retired n) k = robAt n k := robAt_retire n _ _ _ k
@[simp] theorem entryAt_retired (n : State) (p : Pick) : entryAt (retired n) p = entryAt n p := entryAt_retire n _ _ _ p
@[simp] theorem retired_robHead (n : State) : (retired n).robHead = n.robHead + 1 := by simp [retired]
@[simp] theorem retired_robSize (n : State) : (retired n).robSize = n.robSize - 1 := by simp [retired]
@[simp] theorem retired_flush (n : State) : (retired n).flush = n.flush := by simp [retired]

theorem retired_block (n : State) :
    (retired n).block = true ↔ n.block = true ∧ (head n).commitClass ≠ .jumpRegister := by
  simp only [retired, retireHead_block, commitEffect_block]
  split <;> rename_i h <;> simp [h]

theorem retired_draining (n : State) :
    (retired n).draining = true ↔ n.draining = true ∧ (head n).commitClass ≠ .halt := by
  simp only [State.draining_eq_true_iff, retired, retireHead_drainBit, commitEffect_drainBit, retireHead_halted,
    commitEffect_halted, and_assoc]
  split <;> rename_i h <;> simp [h]

theorem occupied_retired (hc : Consistent n) (h0 : n.robSize ≠ 0) (k : RobId) :
    occupied (retired n) k = true ↔ occupied n k = true ∧ k ≠ n.robHead :=
  occupied_retire (retired_robHead n) (retired_robSize n) h0 hc.size_le k

theorem youngest_retired (n : State) : youngest (retired n) = youngest n :=
  youngest_retire (retired_robHead n) (retired_robSize n)

/-- When something other than the head is the youngest entry, the head is not the last one in flight. -/
theorem retired_robSize_ne_zero (hc : Consistent n) (h0 : n.robSize ≠ 0) (hy : n.robHead ≠ youngest n) :
    (retired n).robSize ≠ 0 := by
  have hage : age n (youngest n) ≠ 0 := fun h => hy ((age_eq_zero_iff n _).1 h).symm
  rw [age_youngest h0 hc.size_le] at hage
  have hsz := robSize_retire (retired_robSize n) h0
  exact (robSize_ne_zero_iff _).2 (by omega)

theorem promises_retired (hc : Consistent n) (h0 : n.robSize ≠ 0) (r : Reg) (k : RobId) :
    Promises (retired n) r k ↔ Promises n r k ∧ k ≠ n.robHead := by
  simp only [Promises, occupied_retired hc h0, robAt_retired]
  tauto

/-- The retirement of the oldest entry does not change which of the others is the youngest producer. -/
theorem youngestPromise_retired (hc : Consistent n) (h0 : n.robSize ≠ 0) (r : Reg) (k : RobId) :
    YoungestPromise (retired n) r k ↔ YoungestPromise n r k ∧ k ≠ n.robHead := by
  simp only [YoungestPromise, promises_retired hc h0]
  constructor
  · rintro ⟨⟨hk, hkh⟩, hmax⟩
    refine ⟨⟨hk, fun j hj => ?_⟩, hkh⟩
    by_cases hjh : j = n.robHead
    · simp [hjh]
    · have hle := hmax j ⟨hj, hjh⟩
      have hagej := age_retire (retired_robHead n) hjh
      have hagek := age_retire (retired_robHead n) hkh
      omega
  · rintro ⟨⟨hk, hmax⟩, hkh⟩
    refine ⟨⟨hk, hkh⟩, fun j ⟨hj, hjh⟩ => ?_⟩
    have hle := hmax j hj
    have hagej := age_retire (retired_robHead n) hjh
    have hagek := age_retire (retired_robHead n) hkh
    omega

/-- An Alias Table entry is busy after the retirement exactly when it was before and does not name the head. -/
theorem alias_retired (hc : Consistent n) {r : Reg} (hr : r ≠ 0) (k : RobId) :
    ((Bank.get (retired n).rat r).busy = true ∧ (Bank.get (retired n).rat r).id = k) ↔
      ((Bank.get n.rat r).busy = true ∧ (Bank.get n.rat r).id = k) ∧ k ≠ n.robHead := by
  simp only [retired, retireHead_rat, hc.get_rat_retire hr]
  split <;> rename_i h
  · obtain ⟨hb, hid⟩ := h
    simp [hb, hid, eq_comm]
  · grind

/-- The retirement of a ready head keeps the scheduler consistent. -/
theorem Consistent.retired (hc : Consistent n) (h : HeadReady n) : Consistent (retired n) := by
  obtain ⟨h0, hready⟩ := h
  have hocc := occupied_retired hc h0
  have hhead : ∀ k, (robAt n k).busy = true → k ≠ n.robHead := by
    rintro k hk rfl
    simp [show (robAt n n.robHead).busy = false from hready] at hk
  constructor
  case size_le =>
    have := robSize_retire (retired_robSize n) h0
    have := hc.size_le
    omega
  case alias_zero =>
    rw [Safety.retired, retireHead_rat, get_rat_zero_commitEffect]
    exact hc.alias_zero
  case entry_live =>
    intro p hp
    simp only [entryAt_retired, robAt_retired, hocc] at hp ⊢
    obtain ⟨hlive, hbusy, hop, hroute⟩ := hc.entry_live p hp
    exact ⟨⟨hlive, hhead _ hbusy⟩, hbusy, hop, hroute⟩
  case entry_unique => simpa only [entryAt_retired] using hc.entry_unique
  case rob_live =>
    intro k hk hb
    simp only [entryAt_retired, robAt_retired, hocc] at hk hb ⊢
    exact hc.rob_live k hk.1 hb
  case tag_live =>
    intro p q hp htag
    simp only [entryAt_retired, robAt_retired, older_iff, hocc] at hp htag ⊢
    obtain ⟨holder, hbusy, hpromise⟩ := hc.tag_live p q hp htag
    obtain ⟨hlive, hage⟩ := (older_iff n q _).1 holder
    have hq := age_retire (retired_robHead n) (hhead q hbusy)
    have hd := age_retire (retired_robHead n) (hhead _ (hc.entry_live p hp).2.1)
    exact ⟨⟨⟨hlive, hhead q hbusy⟩, by omega⟩, hbusy, hpromise⟩
  case alias_youngest =>
    intro r hr k
    rw [alias_retired hc hr, youngestPromise_retired hc h0, hc.alias_youngest r hr]
  case alias_resolved =>
    intro r hr
    simp only [promises_retired hc h0]
    have hnames := alias_retired hc hr
    constructor
    · intro hb k ⟨hk, hkh⟩
      by_cases hbusy : (Bank.get n.rat r).busy = true
      · have hid : (Bank.get n.rat r).id = n.robHead := by
          by_contra hne
          simp [hb, hbusy, hne] at hnames
        obtain ⟨_, hmax⟩ := hc.alias_names hr hbusy
        have hle := hmax k hk
        rw [hid, age_head] at hle
        exact hkh ((age_eq_zero_iff n k).1 (Nat.le_zero.1 hle))
      · exact (hc.alias_resolved r hr).1 (Bool.not_eq_true _ ▸ hbusy) k hk
    · intro hnone
      rw [← Bool.not_eq_true]
      intro hb
      obtain ⟨hold, hne⟩ := (hnames _).1 ⟨hb, rfl⟩
      exact hnone _ ⟨((hc.alias_youngest r hr _).1 hold).1, hne⟩
  case halt_mark =>
    intro k hk
    rw [robAt_retired]
    exact hc.halt_mark k ((hocc k).1 hk).1
  case block_jalr =>
    intro hb
    obtain ⟨hblock, hclass⟩ := (retired_block n).1 hb
    obtain ⟨_, hop⟩ := hc.block_jalr hblock
    refine ⟨retired_robSize_ne_zero hc h0 fun hy => ?_, by rwa [youngest_retired, robAt_retired]⟩
    exact hclass ((hc.head_class_jumpRegister h0).2 (by rw [head, hy]; exact hop))
  case draining_halt =>
    intro hd
    obtain ⟨hdrain, hclass⟩ := (retired_draining n).1 hd
    obtain ⟨_, hhalt⟩ := hc.draining_halt hdrain
    refine ⟨retired_robSize_ne_zero hc h0 fun hy => ?_, by rwa [youngest_retired, robAt_retired]⟩
    exact hclass ((hc.head_class_halt h0).2 (by rw [head, hy]; exact hhalt))
  case jalr_youngest =>
    intro k hk hop
    obtain ⟨hk, hkh⟩ := (hocc k).1 hk
    obtain ⟨hblock, hy⟩ := hc.jalr_youngest k hk (by simpa using hop)
    refine ⟨(retired_block n).2 ⟨hblock, fun hclass => hkh ?_⟩, by rwa [youngest_retired]⟩
    have hheady := (hc.jalr_youngest _ (occupied_head h0) ((hc.head_class_jumpRegister h0).1 hclass)).2
    exact hy.trans hheady.symm
  case halt_youngest =>
    intro k hk hhalt
    obtain ⟨hk, hkh⟩ := (hocc k).1 hk
    obtain ⟨hdrain, hy⟩ := hc.halt_youngest k hk (by simpa using hhalt)
    refine ⟨(retired_draining n).2 ⟨hdrain, fun hclass => hkh ?_⟩, by rwa [youngest_retired]⟩
    have hheady := (hc.halt_youngest _ (occupied_head h0) ((hc.head_class_halt h0).1 hclass)).2
    exact hy.trans hheady.symm
  case flush_empty =>
    intro hf
    exact absurd (hc.flush_empty (by simpa using hf)).1 h0

end

/-! ### An issue (R144 to R155) -/

/-- The state `n`, which holds the writes of Execute and Commit, admits the issue of plan `p` into slot `i`, computed from the current
copy `s` and the CDB of the cycle: nothing stops Fetch, the ROB has room, the slot is free, and every tag that is captured names a busy
producer in flight. -/
structure Admits (s n : State) (cdb : Option Cdb) (p : IssuePlan) (i : Slot) : Prop where
  room : n.robSize.toNat < 32
  block : n.block = false
  drainBit : n.drainBit = false
  halted : n.halted = false
  flush : n.flush = false
  tail : tail s = tail n
  slot : (entryAt n ⟨routeOf p.op, i⟩).busy = false
  mark : p.halt = true ↔ p.op = .halt
  tags : ∀ q, (issuedEntry s cdb p).qj = some q ∨ (issuedEntry s cdb p).qk = some q →
    occupied n q = true ∧ (robAt n q).busy = true ∧ (robAt n q).op.writesReg = true ∧ (robAt n q).rd ≠ 0

section
variable {s n : State} {cdb : Option Cdb} {p : IssuePlan} {i : Slot} (red : Bool)

theorem entryAt_applyIssue_new : entryAt (applyIssue s n cdb red p i) ⟨routeOf p.op, i⟩ = issuedEntry s cdb p := by
  rw [entryAt_applyIssue, if_pos rfl]

theorem entryAt_applyIssue_old {q : Pick} (hq : q ≠ ⟨routeOf p.op, i⟩) :
    entryAt (applyIssue s n cdb red p i) q = entryAt n q := by
  rw [entryAt_applyIssue, if_neg hq]

theorem youngest_applyIssue : youngest (applyIssue s n cdb red p i) = tail n := youngest_issue rfl rfl

variable (h : Admits s n cdb p i)
include h

namespace Admits

theorem occupied_iff (k : RobId) :
    occupied (applyIssue s n cdb red p i) k = true ↔ occupied n k = true ∨ k = Machine.tail n :=
  occupied_issue (applyIssue_robHead s n cdb red p i) (applyIssue_robSize s n cdb red p i) h.room k

theorem robSize : (applyIssue s n cdb red p i).robSize.toNat = n.robSize.toNat + 1 := robSize_issue rfl h.room

theorem robSize_ne_zero : (applyIssue s n cdb red p i).robSize ≠ 0 :=
  (robSize_ne_zero_iff _).2 (by have := h.robSize red; omega)

theorem robAt_tail : robAt (applyIssue s n cdb red p i) (Machine.tail n) = issuedRob s p :=
  h.tail ▸ robAt_applyIssue_tail s n cdb red p i

theorem robAt_old {k : RobId} (hk : occupied n k = true) : robAt (applyIssue s n cdb red p i) k = robAt n k := by
  rw [robAt_applyIssue, h.tail, if_neg (ne_tail_of_occupied h.room hk)]

theorem dest_new : (issuedEntry s cdb p).dest = Machine.tail n := h.tail

/-- A ROB id that was not in flight is no busy entry's: only the new entry names the tail. -/
theorem dest_old_ne (hc : Consistent n) {q : Pick} (hq : q ≠ ⟨routeOf p.op, i⟩)
    (hb : (entryAt (applyIssue s n cdb red p i) q).busy = true) :
    (entryAt (applyIssue s n cdb red p i) q).dest ≠ Machine.tail n := by
  rw [entryAt_applyIssue_old red hq] at hb ⊢
  exact ne_tail_of_occupied h.room (hc.entry_live q hb).1

/-- The issue adds the promise of the new entry, when it writes a register, to those that stand. -/
theorem promises_iff (r : Reg) (k : RobId) : Promises (applyIssue s n cdb red p i) r k ↔
    Promises n r k ∨ (k = Machine.tail n ∧ p.op.writesReg = true ∧ p.rd = r) := by
  by_cases hk : k = Machine.tail n
  · simp [Promises, h.occupied_iff, hk, h.robAt_tail, not_occupied_tail h.room, issuedRob]
  · by_cases hko : occupied n k = true
    · simp [Promises, h.occupied_iff, hk, hko, h.robAt_old red hko]
    · simp [Promises, h.occupied_iff, hk, hko]

/-- Every standing promise is older than the new entry. -/
theorem age_lt_of_promises {r : Reg} {k : RobId} (hk : Promises n r k) : age n k < age n (Machine.tail n) := by
  rw [age_tail h.room]
  exact (Machine.occupied_iff n k).1 hk.1

/-- The claimed register has the new entry as its youngest promise. -/
theorem youngestPromise_claimed (hw : p.op.writesReg = true) (k : RobId) :
    YoungestPromise (applyIssue s n cdb red p i) p.rd k ↔ k = Machine.tail n := by
  simp only [YoungestPromise, h.promises_iff, age_of_same_head (applyIssue_robHead s n cdb red p i)]
  constructor
  · rintro ⟨hk | ⟨rfl, _⟩, hmax⟩
    · have hle := hmax (Machine.tail n) (.inr ⟨rfl, hw, trivial⟩)
      have hlt := h.age_lt_of_promises hk
      omega
    · rfl
  · rintro rfl
    refine ⟨.inr ⟨rfl, hw, trivial⟩, ?_⟩
    rintro j (hj | ⟨rfl, _⟩)
    · exact (h.age_lt_of_promises hj).le
    · exact le_rfl

/-- The promises of every other register stand as they were. -/
theorem promises_unclaimed {r : Reg} (hclaim : ¬ (p.op.writesReg = true ∧ p.rd = r)) (k : RobId) :
    Promises (applyIssue s n cdb red p i) r k ↔ Promises n r k := by
  rw [h.promises_iff, or_iff_left fun hk => hclaim hk.2]

theorem get_rat (r : Reg) : Bank.get (applyIssue s n cdb red p i).rat r =
    if p.op.writesReg = true ∧ p.rd ≠ 0 ∧ p.rd = r then { busy := true, id := Machine.tail n } else Bank.get n.rat r := by
  rw [applyIssue_rat, h.tail, get_claim]

end Admits

/-- An issue that the cycle admits keeps the scheduler consistent. -/
theorem Consistent.issue (hc : Consistent n) : Consistent (applyIssue s n cdb red p i) := by
  have hocc := h.occupied_iff red
  constructor
  case size_le =>
    have := h.robSize red
    have := h.room
    omega
  case alias_zero =>
    rw [h.get_rat, if_neg fun hclaim => hclaim.2.1 hclaim.2.2]
    exact hc.alias_zero
  case entry_live =>
    intro q hq
    by_cases hqn : q = ⟨routeOf p.op, i⟩
    · subst hqn
      rw [entryAt_applyIssue_new, h.dest_new, h.robAt_tail]
      exact ⟨(hocc _).2 (.inr rfl), rfl, rfl, rfl⟩
    · rw [entryAt_applyIssue_old red hqn] at hq ⊢
      obtain ⟨hlive, hbusy, hop, hroute⟩ := hc.entry_live q hq
      rw [h.robAt_old red hlive]
      exact ⟨(hocc _).2 (.inl hlive), hbusy, hop, hroute⟩
  case entry_unique =>
    intro a b ha hb e
    by_cases han : a = ⟨routeOf p.op, i⟩ <;> by_cases hbn : b = ⟨routeOf p.op, i⟩
    · rw [han, hbn]
    · rw [han, entryAt_applyIssue_new, h.dest_new] at e
      exact absurd e.symm (h.dest_old_ne red hc hbn hb)
    · rw [hbn, entryAt_applyIssue_new, h.dest_new] at e
      exact absurd e (h.dest_old_ne red hc han ha)
    · rw [entryAt_applyIssue_old red han] at ha e
      rw [entryAt_applyIssue_old red hbn] at hb e
      exact hc.entry_unique a b ha hb e
  case rob_live =>
    intro k hk hb
    obtain hk | rfl := (hocc k).1 hk
    · rw [h.robAt_old red hk] at hb
      obtain ⟨q, hq, rfl⟩ := hc.rob_live k hk hb
      have hqn : q ≠ ⟨routeOf p.op, i⟩ := by
        rintro rfl
        simp [h.slot] at hq
      exact ⟨q, by rwa [entryAt_applyIssue_old red hqn], by rw [entryAt_applyIssue_old red hqn]⟩
    · exact ⟨_, by rw [entryAt_applyIssue_new]; rfl, by rw [entryAt_applyIssue_new]; exact h.dest_new⟩
  case tag_live =>
    intro a q ha hq
    simp only [older_iff, age_of_same_head (applyIssue_robHead s n cdb red p i)]
    by_cases han : a = ⟨routeOf p.op, i⟩
    · subst han
      rw [entryAt_applyIssue_new] at hq ⊢
      obtain ⟨hlive, hpromise⟩ := h.tags q hq
      rw [h.robAt_old red hlive, h.dest_new, age_tail h.room]
      exact ⟨⟨(hocc q).2 (.inl hlive), (occupied_iff n q).1 hlive⟩, hpromise⟩
    · rw [entryAt_applyIssue_old red han] at ha hq ⊢
      obtain ⟨holder, hpromise⟩ := hc.tag_live a q ha hq
      obtain ⟨hlive, hlt⟩ := (older_iff n q _).1 holder
      rw [h.robAt_old red hlive]
      exact ⟨⟨(hocc q).2 (.inl hlive), hlt⟩, hpromise⟩
  case alias_youngest =>
    intro r hr k
    rw [h.get_rat]
    by_cases hclaim : p.op.writesReg = true ∧ p.rd = r
    · obtain ⟨hw, rfl⟩ := hclaim
      rw [if_pos ⟨hw, hr, rfl⟩, h.youngestPromise_claimed red hw]
      simp [eq_comm]
    · rw [if_neg fun hcl => hclaim ⟨hcl.1, hcl.2.2⟩]
      simp only [YoungestPromise, h.promises_unclaimed red hclaim, age_of_same_head (applyIssue_robHead s n cdb red p i)]
      exact hc.alias_youngest r hr k
  case alias_resolved =>
    intro r hr
    rw [h.get_rat]
    by_cases hclaim : p.op.writesReg = true ∧ p.rd = r
    · obtain ⟨hw, rfl⟩ := hclaim
      rw [if_pos ⟨hw, hr, rfl⟩]
      simp only [Bool.true_eq_false, false_iff, not_forall, not_not]
      exact ⟨tail n, (h.promises_iff red _ _).2 (.inr ⟨rfl, hw, rfl⟩)⟩
    · rw [if_neg fun hcl => hclaim ⟨hcl.1, hcl.2.2⟩]
      simp only [h.promises_unclaimed red hclaim]
      exact hc.alias_resolved r hr
  case halt_mark =>
    intro k hk
    obtain hk | rfl := (hocc k).1 hk
    · rw [h.robAt_old red hk]
      exact hc.halt_mark k hk
    · rw [h.robAt_tail]
      exact h.mark
  case block_jalr =>
    intro hb
    rw [youngest_applyIssue, h.robAt_tail]
    exact ⟨h.robSize_ne_zero red, by simpa [h.block, issuedRob] using hb⟩
  case draining_halt =>
    intro hd
    rw [youngest_applyIssue, h.robAt_tail]
    exact ⟨h.robSize_ne_zero red, by simpa [State.draining, h.drainBit, h.halted, issuedRob] using hd⟩
  case jalr_youngest =>
    intro k hk hop
    obtain hk | rfl := (hocc k).1 hk
    · rw [h.robAt_old red hk] at hop
      exact absurd (hc.jalr_youngest k hk hop).1 (by simp [h.block])
    · rw [h.robAt_tail] at hop
      exact ⟨by simp [show p.op = .jalr from hop], (youngest_applyIssue red).symm⟩
  case halt_youngest =>
    intro k hk hhalt
    obtain hk | rfl := (hocc k).1 hk
    · rw [h.robAt_old red hk] at hhalt
      exact absurd (hc.halt_youngest k hk hhalt).1 (by simp [State.draining, h.drainBit])
    · rw [h.robAt_tail] at hhalt
      exact ⟨by simp [State.draining, h.halted, show p.halt = true from hhalt], (youngest_applyIssue red).symm⟩
  case flush_empty =>
    intro hf
    simp [h.flush] at hf

end

/-! ### A cycle -/

/-- The entry that fires has a busy ROB entry, so Execute leaves every ready one alone. -/
theorem Consistent.robAt_applyExecute_of_ready {s : State} (hc : Consistent s) {ex : ExecResult} (hex : execute s = .ok ex)
    {k : RobId} (hready : (robAt s k).busy = false) : robAt (Machine.applyExecute s ex) k = robAt s k := by
  rcases execute_cases hex with ⟨rfl, _⟩ | ⟨rfl, _⟩ | ⟨p, v, t, hsel, _, rfl⟩
  · rfl
  · rfl
  · refine (robAt_applyFire _ s k).trans (if_neg ?_)
    rintro rfl
    have hbusy := (hc.entry_live p (eligible_ready (select_eligible hsel)).1).2.1
    simp [hready] at hbusy

/-- The writes of Execute and Commit together keep the scheduler consistent: a ready head is not the entry that fires. -/
theorem Consistent.applyCommit {s : State} (hc : Consistent s) {ex : ExecResult} {cm : CommitResult} (hex : execute s = .ok ex)
    (hcm : commit s = .ok cm) : Consistent (applyCommit s.robHead (Machine.applyExecute s ex) cm) := by
  have hn := hc.applyExecute hex
  rcases commit_cases hcm with ⟨rfl, _⟩ | ⟨h0, hready, ⟨rfl, _⟩ | ⟨c, rfl, rfl, _⟩⟩
  · exact hn
  · exact hn
  · have hhead : head (Machine.applyExecute s ex) = robAt s s.robHead := by
      rw [head, applyExecute_robHead, hc.robAt_applyExecute_of_ready hex hready]
    have hret := hn.retired ⟨by rwa [applyExecute_robSize], by rwa [hhead]⟩
    rwa [Safety.retired, applyExecute_robHead, hhead] at hret

end Sys2Proof.Safety
end

section
/-! PROOFS, `10_state.md`. One step of an active state, said once (R124, R125, R335); every step keeps the scheduler consistent, and so
does reset (R42, R43). -/

namespace Sys2Proof.Machine

open Safety

/-! ### Totality with the whole address space as memory (R335) -/

theorem readPort_full {s : State} (hm : FullMemory s) (k : Access) (a : Word) (n : Width) :
    readPort s k a n = .ok (memRead s.mem a n) := if_pos (inMemory_full hm a n)

theorem fireEntry_full {s : State} (hm : FullMemory s) (e : StationEntry) : ∃ c, fireEntry s e = .ok c := by
  unfold fireEntry
  cases e.op <;> simp [fireLb, fireLh, fireLw, fireLbu, fireLhu, readPort_full hm, Except.map]

theorem execute_full {s : State} (hm : FullMemory s) : ∃ ex, execute s = .ok ex := by
  unfold execute
  cases select s with
  | none => exact ⟨_, rfl⟩
  | some p =>
    obtain ⟨c, hc⟩ := fireEntry_full hm (entryAt s p)
    cases c <;> simp [hc]

theorem commit_full {s : State} (hm : FullMemory s) : ∃ cm, commit s = .ok cm := by
  unfold commit
  by_cases h0 : s.robSize = 0
  · exact ⟨_, if_pos h0⟩
  rw [if_neg h0]
  cases (robAt s s.robHead).busy with
  | true => exact ⟨_, if_pos rfl⟩
  | false =>
    by_cases hp : actualTaken (robAt s s.robHead) = (robAt s s.robHead).pred <;>
      cases (robAt s s.robHead).commitClass <;> simp [hp, inMemory_full hm]

theorem activeCycle_full {s : State} (hm : FullMemory s) (h : Option IssuePlan) : ∃ t, activeCycle s h = .next t := by
  obtain ⟨ex, hex⟩ := execute_full hm
  obtain ⟨cm, hcm⟩ := commit_full hm
  cases cm <;> simp [activeCycle, hex, hcm]

/-- No step of an active state is refused when `MEM_BYTES` is its default. -/
theorem step_full {s : State} (hm : FullMemory s) (ha : Active s) : ∃ t, step s = .next t := by
  cases hf : fetchActs s with
  | false => exact step_of_not_fetchActs ha hf ▸ activeCycle_full hm none
  | true => exact step_of_fetchWord hf (readPort_full hm .fetch s.pc .word) ▸ activeCycle_full hm _

/-! ### What one active step does (R124, R125) -/

/-- The writes of Execute and Commit in one cycle, computed from the current copy. -/
abbrev committed (s : State) (ex : ExecResult) (cm : CommitResult) : State := applyCommit s.robHead (applyExecute s ex) cm

/-- Issue stalls unless the ROB has room and the target structure a free slot (R143). -/
theorem stalls_eq_false_iff (s : State) (op : Op) :
    stalls s op = false ↔ s.robSize ≠ 32 ∧ ∃ i : Slot, (Bank.get (stationBank s (routeOf op)) i).busy = false := by
  have hfree : (freeSlot (stationBank s (routeOf op))).isNone = false ↔
      ∃ i : Slot, (Bank.get (stationBank s (routeOf op)) i).busy = false := by
    rw [← Bool.not_eq_true, Option.isNone_iff_eq_none, freeSlot_none_iff]
    simp
  rw [stalls, Bool.or_eq_false_iff, hfree, robFull, beq_eq_false_iff_ne]

/-- A step of an active state is the flush after a misprediction, or the writes of Execute and Commit, and on top of them an issue
exactly when the step issues the fetched word. -/
theorem step_active {s t : State} (ha : Active s) (h : step s = .next t) :
    (Mispredicts s ∧ t = flushState s (head s)) ∨
    (∃ ex cm, execute s = .ok ex ∧ commit s = .ok cm ∧ (∀ b, cm ≠ .mispredicted b) ∧
      (((¬ ∃ w, IssuesWord s w) ∧ t = committed s ex cm) ∨
        ∃ w i, IssuesWord s w ∧ freeSlot (stationBank s (routeOf (wordPlan s w).op)) = some i ∧
          t = applyIssue s (committed s ex cm) ex.cdb cm.redirects (wordPlan s w) i)) := by
  obtain ⟨handed, hcycle, hnone, hsome⟩ : ∃ handed, activeCycle s handed = .next t ∧
      (handed = none → ¬ ∃ w, IssuesWord s w) ∧
      (∀ p, handed = some p → ∃ w, fetchActs s = true ∧ fetchWord s = .ok w ∧ p = wordPlan s w) := by
    rcases step_active_cases ha h with ⟨hf, hcycle⟩ | ⟨w, hf, hw, hcycle⟩
    · exact ⟨none, hcycle, fun _ ⟨w, hi, _⟩ => by simp [hf] at hi, by simp⟩
    · exact ⟨_, hcycle, by simp, fun p hp => ⟨w, hf, hw, (Option.some.inj hp).symm⟩⟩
  obtain ⟨ex, cm, hex, hcm, ⟨b, rfl, rfl⟩ | ⟨hne, rfl⟩⟩ := activeCycle_cases hcycle
  · refine .inl ⟨(commit_mispredicted_iff s).1 ⟨b, hcm⟩, ?_⟩
    rcases commit_cases hcm with ⟨hb, _⟩ | ⟨_, _, ⟨hb, _⟩ | ⟨_, hb, _⟩⟩ <;> cases hb
    rfl
  · refine .inr ⟨ex, cm, hex, hcm, hne, ?_⟩
    rcases issue_cases s (committed s ex cm) ex.cdb cm.redirects handed with
      ⟨hh, ht⟩ | ⟨p, hh, hstall, ht⟩ | ⟨p, i, hh, hstall, _, hi, ht⟩
    · exact .inl ⟨hnone hh, ht⟩
    · obtain ⟨w, _, hw, rfl⟩ := hsome p hh
      refine .inl ⟨?_, ht⟩
      rintro ⟨w', _, hw', hroom⟩
      cases hw.symm.trans hw'
      rw [wordPlan_op, ← Bool.not_eq_false, stalls_eq_false_iff] at hstall
      exact hstall hroom
    · obtain ⟨w, hf, hw, rfl⟩ := hsome p hh
      rw [wordPlan_op, stalls_eq_false_iff] at hstall
      exact .inr ⟨w, i, ⟨hf, hw, hstall⟩, hi, ht⟩

end Sys2Proof.Machine

namespace Sys2Proof.Safety

open Sys2Proof.Machine

/-! ### Every step keeps the scheduler consistent -/

/-- Commit sets no block flag (R293). -/
theorem applyCommit_block_of_false {n : State} (h : RobId) (cm : CommitResult) (hb : n.block = false) :
    (applyCommit h n cm).block = false := by
  cases cm with
  | idle => exact hb
  | mispredicted b => exact hb
  | retired c b => simp [applyCommit, commitEffect_block, hb]

/-- Commit moves the window by the retirement of a ready head, or not at all. -/
theorem committed_window {s : State} {cm : CommitResult} (ex : ExecResult) (hcm : commit s = .ok cm) :
    ((committed s ex cm).robHead = s.robHead ∧ (committed s ex cm).robSize = s.robSize) ∨
    (HeadReady s ∧ (committed s ex cm).robHead = s.robHead + 1 ∧ (committed s ex cm).robSize = s.robSize - 1) := by
  rcases commit_cases hcm with ⟨rfl, _⟩ | ⟨h0, hready, ⟨rfl, _⟩ | ⟨c, rfl, _⟩⟩
  · exact .inl (by simp [applyCommit])
  · exact .inl (by simp [applyCommit])
  · exact .inr ⟨⟨h0, hready⟩, by simp [applyCommit], by simp [applyCommit]⟩

/-- While Fetch acts no sentinel is in flight, so none retires. -/
theorem Consistent.commit_ne_halt {s : State} (hc : Consistent s) (hf : fetchActs s = true) (b : RobEntry) :
    commit s ≠ .ok (.retired .halt b) := by
  intro hcm
  obtain ⟨⟨h0, _⟩, hhalt⟩ := (commit_halt_iff s).1 ⟨b, hcm⟩
  have hmark : (head s).halt = true := hhalt.elim id (hc.halt_mark _ (occupied_head h0)).2
  have hdrain := (hc.halt_youngest _ (occupied_head h0) hmark).1
  simp [((fetchActs_iff s).1 hf).2.2] at hdrain

/-- In a consistent state in which Fetch acts, a plan that does not stall can be issued on top of the writes of Execute and Commit. -/
theorem Consistent.admits {s : State} (hc : Consistent s) (hf : fetchActs s = true) (ex : ExecResult) {cm : CommitResult}
    (hcm : commit s = .ok cm) {p : IssuePlan} (hmark : p.halt = true ↔ p.op = .halt)
    (hsize : s.robSize ≠ 32) {i : Slot} (hi : freeSlot (stationBank s (routeOf p.op)) = some i) :
    Admits s (committed s ex cm) ex.cdb p i := by
  obtain ⟨⟨⟨hhalted, _⟩, hflush⟩, hblock, hdrain⟩ := (fetchActs_iff s).1 hf
  have hroom : s.robSize.toNat < 32 := robSize_lt_of_not_full hc.size_le (by simpa [robFull] using hsize)
  have hwindow := committed_window ex hcm
  constructor
  case room =>
    obtain ⟨_, hsz⟩ | ⟨⟨h0, _⟩, _, hsz⟩ := hwindow
    · rwa [hsz]
    · have := robSize_retire hsz h0
      omega
  case block => exact applyCommit_block_of_false _ _ (by simpa using hblock)
  case drainBit => simpa [State.draining_of_not_halted hhalted] using hdrain
  case halted =>
    rw [← Bool.not_eq_true, applyCommit_halted]
    rintro (h | ⟨b, rfl⟩)
    · simp [hhalted] at h
    · exact hc.commit_ne_halt hf b hcm
  case flush => simpa using hflush
  case tail =>
    obtain ⟨hhd, hsz⟩ | ⟨_, hhd, hsz⟩ := hwindow
    · simp only [tail, hhd, hsz]
    · exact (tail_retire hhd hsz).symm
  case slot =>
    rw [entryAt_applyCommit]
    exact entryAt_applyExecute_not_busy ex (freeSlot_free hi)
  case mark => exact hmark
  case tags =>
    intro q hq
    obtain ⟨r, hr, halias, rfl, hbusy, hcdb⟩ := issuedEntry_tag hq
    obtain ⟨⟨hlive, hwrites, hrd⟩, _⟩ := hc.alias_names hr halias
    simp only [robAt_applyCommit, robAt_applyExecute_op, robAt_applyExecute_rd]
    refine ⟨?_, robAt_applyExecute_busy hbusy hcdb, hwrites, by rwa [hrd]⟩
    obtain ⟨hhd, hsz⟩ | ⟨⟨h0, hready⟩, hhd, hsz⟩ := hwindow
    · rw [occupied_of_same_window hhd hsz]
      exact hlive
    · refine (occupied_retire hhd hsz h0 hc.size_le _).2 ⟨hlive, fun e => ?_⟩
      rw [e, show (robAt s s.robHead).busy = false from hready] at hbusy
      cases hbusy

/-- Every step of an active consistent state leads to a consistent one. -/
theorem Consistent.step_active {s t : State} (hc : Consistent s) (ha : Active s) (h : step s = .next t) : Consistent t := by
  rcases Machine.step_active ha h with ⟨_, rfl⟩ | ⟨ex, cm, hex, hcm, _, ⟨_, rfl⟩ | ⟨w, i, ⟨hf, _, hsize, _⟩, hi, rfl⟩⟩
  · exact consistent_flushState s _
  · exact hc.applyCommit hex hcm
  · exact (hc.applyCommit hex hcm).issue _ (hc.admits hf ex hcm (wordPlan_halt_iff s w) hsize hi)

end Sys2Proof.Safety

namespace Sys2Proof.Proofs

open Sys2Proof.Machine Sys2Proof.Safety

/-- Settles O16: a state that is not active keeps everything but the flush flag; an active step is a flush, or a fire, a retirement and
an issue, each of which keeps the scheduler consistent. -/
theorem stepKeepsConsistent : Obligations.StepKeepsConsistent := by
  intro s t hc h
  by_cases ha : Active s
  · exact hc.step_active ha h
  · obtain rfl | rfl := step_of_not_active ha h
    · exact hc
    · exact hc.clearFlush

/-- Settles O15: nothing is in flight after reset. -/
theorem resetIsConsistent : Obligations.ResetIsConsistent := by
  intro p m
  refine consistent_of_empty rfl ?_ (by simp [State.resetWith, RatEntry.clear]) rfl rfl
  rintro ⟨st, i⟩
  cases st <;> simp [State.resetWith, entryAt, stationBank, StationEntry.clear]

end Sys2Proof.Proofs
end

section
/-! PROOFS, `10_state.md`. The reset values, register 0, the progress of the head, and the sentinel from its fetch to its commit (R21,
R43, R187, R278, R301). -/

namespace Sys2Proof.Machine

open Safety

/-! ### Register 0 (R21) -/

/-- Neither Execute nor Commit writes the stored register 0. -/
theorem committed_regs_zero (s : State) (ex : ExecResult) (cm : CommitResult) :
    Bank.get (committed s ex cm).regs 0 = Bank.get s.regs 0 := by
  cases cm with
  | idle => simp [applyCommit]
  | mispredicted b => simp [applyCommit]
  | retired c b =>
    simp only [applyCommit, retireHead_regs, commitEffect_regs, applyExecute_regs]
    split
    next hw => exact Bank.get_put_ne _ _ hw.2
    next => rfl

/-- Neither Execute nor Commit writes entry 0 of the Alias Table. -/
theorem committed_rat_zero (s : State) (ex : ExecResult) (cm : CommitResult) :
    Bank.get (committed s ex cm).rat 0 = Bank.get s.rat 0 := by
  cases cm with
  | idle => simp [applyCommit]
  | mispredicted b => simp [applyCommit]
  | retired c b => simp only [applyCommit, retireHead_rat, get_rat_zero_commitEffect, applyExecute_rat]

/-- Issue does not claim register 0 (R150). -/
theorem issue_rat_zero (s n : State) (cdb : Option Cdb) (red : Bool) (h : Option IssuePlan) :
    Bank.get (issue s n cdb red h).rat 0 = Bank.get n.rat 0 := by
  rcases issue_cases s n cdb red h with ⟨_, e⟩ | ⟨_, _, _, e⟩ | ⟨p, i, _, _, _, _, e⟩
  · rw [e]
  · rw [e]
  · rw [e, applyIssue_rat, get_claim, if_neg fun hclaim => hclaim.2.1 hclaim.2.2]

/-- `t` holds the stored register 0 of `s` and, if it was resolved, its Alias Table entry. -/
def KeepsRegisterZero (s t : State) : Prop :=
  Bank.get t.regs 0 = Bank.get s.regs 0 ∧ ((Bank.get s.rat 0).busy = false → Bank.get t.rat 0 = Bank.get s.rat 0)

theorem activeCycle_register_zero {s t : State} {h : Option IssuePlan} (e : activeCycle s h = .next t) : KeepsRegisterZero s t := by
  obtain ⟨ex, cm, _, _, ⟨b, _, rfl⟩ | ⟨_, rfl⟩⟩ := activeCycle_cases e
  · exact ⟨rfl, fun hb => by simp [← hb]⟩
  · exact ⟨by rw [issue_regs, committed_regs_zero], fun _ => by rw [issue_rat_zero, committed_rat_zero]⟩

theorem cycle_register_zero {s t : State} {h : Option IssuePlan} (e : cycle s h = .next t) : KeepsRegisterZero s t := by
  rcases cycle_cases e with ⟨_, rfl⟩ | ⟨_, _, rfl⟩ | ⟨_, _, _, e⟩ | ⟨_, _, _, _, e⟩
  · exact ⟨rfl, fun _ => rfl⟩
  · exact ⟨rfl, fun _ => rfl⟩
  · exact activeCycle_register_zero e
  · exact activeCycle_register_zero e

/-- A step and the meaning of an instruction are both cycles. -/
theorem moves_is_cycle {s t : State} (h : Moves s t) : ∃ p, cycle s p = .next t := by
  obtain h | ⟨i, h⟩ := h
  · exact step_is_cycle h
  · exact ⟨_, exec_eq_cycle i s ▸ h⟩

/-! ### Nothing busy, nothing fires -/

theorem execute_of_no_busy {s : State} (h : ∀ p : Pick, (entryAt s p).busy = false) : execute s = .ok .idle := by
  have hsel : select s = none := by
    cases hsel : select s with
    | none => rfl
    | some p => simpa [h] using (eligible_ready (select_eligible hsel)).1
  simp [execute, hsel]

theorem commit_of_empty {s : State} (h : s.robSize = 0) : commit s = .ok .idle := by simp [commit, h]

theorem commit_of_head_busy {s : State} (h : (head s).busy = true) : commit s = .ok .idle := by
  simp [commit, show (robAt s s.robHead).busy = true from h]

end Sys2Proof.Machine

namespace Sys2Proof.Safety

open Sys2Proof.Machine

/-! ### The head's entry (R187) -/

/-- The entry of a busy head is eligible: nothing in flight is older, so no tag and no memory check holds it back. -/
theorem Consistent.head_eligible {s : State} (hc : Consistent s) (h0 : s.robSize ≠ 0) (hb : (head s).busy = true) :
    ∃ p : Pick, eligible s p.station (entryAt s p) = true ∧ (entryAt s p).dest = s.robHead := by
  obtain ⟨p, hp, hdest⟩ := hc.rob_live _ (occupied_head h0) hb
  have hyounger : ∀ k, older s k (entryAt s p).dest = false := fun k => by simp [older, hdest]
  have hready : ready (entryAt s p) = true := by
    have htag : ∀ q, ¬ ((entryAt s p).qj = some q ∨ (entryAt s p).qk = some q) := fun q hq => by
      simpa [hyounger] using (hc.tag_live p q hp hq).1
    simp only [not_or, ← Option.mem_def] at htag
    simp [ready, hp, Option.eq_none_iff_forall_not_mem.2 fun q => (htag q).1,
      Option.eq_none_iff_forall_not_mem.2 fun q => (htag q).2]
  refine ⟨p, ?_, hdest⟩
  obtain ⟨_, _, _, hroute⟩ := hc.entry_live p hp
  cases hst : p.station with
  | rs => simp [eligible, hready]
  | lsb =>
    rw [hst, eq_comm, routeOf_eq_lsb_iff, Op.isMem_iff] at hroute
    simpa [eligible, hready, loadPasses, storePasses, hyounger] using hroute

/-- With the default selection a busy head's entry is the one that fires (R175). -/
theorem Consistent.select_head {s : State} (hc : Consistent s) (hchoices : s.choices = []) (h0 : s.robSize ≠ 0)
    (hb : (head s).busy = true) : ∃ p, select s = some p ∧ (entryAt s p).dest = s.robHead := by
  obtain ⟨q, hq, hdest⟩ := hc.head_eligible h0 hb
  cases hsel : select s with
  | none =>
    rw [select_none_iff] at hsel
    simpa [hsel] using (mem_eligiblePicks s q).2 hq
  | some p =>
    refine ⟨p, rfl, (age_eq_zero_iff s _).1 (Nat.le_zero.1 ?_)⟩
    have hle := select_oldest hchoices hsel q hq
    rwa [hdest, age_head] at hle

/-- When the head is the only instruction in flight and busy, its entry is the one that fires, whatever `SELECT` is. -/
theorem Consistent.select_sole {s : State} (hc : Consistent s) (h1 : s.robSize = 1) (hb : (head s).busy = true) :
    ∃ p, select s = some p ∧ (entryAt s p).dest = s.robHead := by
  obtain ⟨q, hq, _⟩ := hc.head_eligible (by simp [h1]) hb
  cases hsel : select s with
  | none =>
    rw [select_none_iff] at hsel
    simpa [hsel] using (mem_eligiblePicks s q).2 hq
  | some p =>
    have hp := (eligible_ready (select_eligible hsel)).1
    exact ⟨p, rfl, eq_head_of_occupied h1 (hc.entry_live p hp).1⟩

/-- A selected entry that is not INVALID fires. -/
theorem execute_fired {s : State} (hm : FullMemory s) {p : Pick} (hsel : select s = some p) (hop : (entryAt s p).op ≠ .invalid) :
    ∃ f, execute s = .ok (.fired f) ∧ f.pick = p ∧ f.dest = (entryAt s p).dest := by
  obtain ⟨ex, hex⟩ := execute_full hm
  rcases execute_cases hex with ⟨_, hsel'⟩ | ⟨_, q, hsel', hop'⟩ | ⟨q, v, t, hsel', _, rfl⟩
  · simp [hsel] at hsel'
  · cases hsel.symm.trans hsel'
    exact absurd hop' hop
  · cases hsel.symm.trans hsel'
    exact ⟨_, hex, rfl, rfl⟩

/-- The issue of the cycle does not touch an entry in flight. -/
theorem robAt_applyIssue_of_occupied {s n : State} {cdb : Option Cdb} {red : Bool} {p : IssuePlan} {i : Slot}
    (hroom : s.robSize.toNat < 32) {k : RobId} (hk : occupied s k = true) :
    robAt (applyIssue s n cdb red p i) k = robAt n k := by
  rw [robAt_applyIssue, if_neg (ne_tail_of_occupied hroom hk)]

/-- The entry that names the head holds the head's operation (R42 (a)). -/
theorem Consistent.head_op {s : State} (hc : Consistent s) {p : Pick} (hsel : select s = some p)
    (hdest : (entryAt s p).dest = s.robHead) : (entryAt s p).op = (head s).op := by
  rw [head, ← hdest]
  exact (hc.entry_live p (eligible_ready (select_eligible hsel)).1).2.2.1.symm

/-- While Fetch is stopped, a busy head that is alone in flight fires, whatever `SELECT` is, and nothing else happens. -/
theorem Consistent.step_sole {s : State} (hc : Consistent s) (hm : FullMemory s) (ha : Active s) (hf : fetchActs s = false)
    (h1 : s.robSize = 1) (hb : (head s).busy = true) (hop : (head s).op ≠ .invalid) :
    ∃ f, step s = .next (applyFire f s) ∧ HeadReady (applyFire f s) := by
  obtain ⟨p, hsel, hdest⟩ := hc.select_sole h1 hb
  obtain ⟨f, hfire, _, hfdest⟩ := execute_fired hm hsel (hc.head_op hsel hdest ▸ hop)
  refine ⟨f, ?_, by simp [h1], ?_⟩
  · rw [step_of_not_fetchActs ha hf, activeCycle, hfire, commit_of_head_busy hb]
    rfl
  · rw [← Bool.not_eq_true, head, robAt_applyFire_busy_iff]
    exact fun h => h.1 (hdest.symm.trans hfdest.symm)

/-! ### The sentinel (R278, R301) -/

/-- A sentinel at the head is the only instruction in flight, and Fetch is stopped (R35, R301). -/
theorem Consistent.sentinel_alone {s : State} (hc : Consistent s) (h0 : s.robSize ≠ 0) (hhalt : (head s).halt = true) :
    s.robSize = 1 ∧ s.draining = true := by
  obtain ⟨hdrain, hyoung⟩ := hc.halt_youngest _ (occupied_head h0) hhalt
  exact ⟨robSize_eq_one_of_head_youngest h0 hc.size_le hyoung, hdrain⟩

/-- In a consistent state the step that retires the sentinel does nothing else: nothing fires and nothing is issued beside it. -/
theorem Consistent.step_sentinel {s : State} (hc : Consistent s) (ha : Active s) (hr : HeadReady s)
    (hhalt : (head s).halt = true) : step s = .next (retireHead (commitHalt s s.robHead (head s))) := by
  obtain ⟨h0, hready⟩ := hr
  obtain ⟨h1, hdrain⟩ := hc.sentinel_alone h0 hhalt
  have hidle : ∀ p : Pick, (entryAt s p).busy = false := fun p => by
    rw [← Bool.not_eq_true]
    intro hp
    obtain ⟨hlive, hbusy, _⟩ := hc.entry_live p hp
    rw [eq_head_of_occupied h1 hlive] at hbusy
    simp [show (robAt s s.robHead).busy = false from hready] at hbusy
  have hcommit : commit s = .ok (.retired .halt (head s)) := by
    have hclass := (hc.head_class_halt h0).2 hhalt
    simp only [head] at hclass hready ⊢
    simp [commit, h1, hready, hclass]
  rw [step_of_not_fetchActs ha (by simp [fetchActs, hdrain]), activeCycle, execute_of_no_busy hidle, hcommit]
  rfl

/-- A drained state is consistent. -/
theorem Drained.consistent {s : State} (hd : Drained s) : Consistent s :=
  consistent_of_empty hd.size hd.stations hd.aliases hd.block hd.draining

/-- From a drained state every instruction issues, and nothing else happens (R144, R159). -/
theorem Drained.exec {s : State} (hd : Drained s) (i : Instr) :
    ∃ j, exec i s = .next (applyIssue s s none false (planOf i s) j) ∧
      Consistent (applyIssue s s none false (planOf i s) j) := by
  have hf : fetchActs s = true := (fetchActs_iff s).2 ⟨hd.active, hd.block, hd.draining⟩
  have hex := execute_of_no_busy hd.stations
  have hcm := commit_of_empty hd.size
  have hroom : s.robSize ≠ 32 := by simp [hd.size]
  have hstall : stalls s (planOf i s).op = false :=
    (stalls_eq_false_iff s _).2 ⟨hroom, 0, hd.stations ⟨routeOf (planOf i s).op, 0⟩⟩
  rcases issue_cases s s none false (some (planOf i s)) with ⟨h, _⟩ | ⟨p, h, hs, _⟩ | ⟨p, j, h, _, _, hj, hissue⟩
  · cases h
  · cases h
    simp [hstall] at hs
  · cases h
    refine ⟨j, ?_, hd.consistent.issue false (hd.consistent.admits hf .idle hcm (planOf_halt_iff i s) hroom hj)⟩
    rw [exec_eq_cycle, cycle_of_fetchActs hf, activeCycle, hex, hcm]
    exact congrArg Host.Outcome.next hissue

end Sys2Proof.Safety

namespace Sys2Proof.Proofs

open Sys2Proof.Machine Sys2Proof.Safety

/-- Settles O18: the register write, the clearing of a claim and the claim all leave register 0 out. -/
theorem registerZeroNeverWritten : Obligations.RegisterZeroNeverWritten := by
  refine ⟨fun s t h => ?_, fun s cdb free => rfl⟩
  obtain ⟨p, hcycle⟩ := moves_is_cycle h
  obtain ⟨hregs, hrat⟩ := cycle_register_zero hcycle
  exact ⟨hregs, rfl, hrat⟩

/-- Settles O29: the sentinel's class writes no register and no byte; consistency leaves nothing else in flight. -/
theorem sentinelCommitHalts : Obligations.SentinelCommitHalts := by
  intro s hm ha hr hhalt
  obtain ⟨t, ht⟩ := step_full hm ha
  obtain ⟨b, hb⟩ := (commit_halt_iff s).2 ⟨hr, .inl hhalt⟩
  have hmispredicts : ¬ Mispredicts s := fun ⟨_, ⟨hno, _⟩, _⟩ => by simp [hhalt] at hno
  have hfields : t.halted = true ∧ t.regs = s.regs ∧ t.mem = s.mem ∧ t.robHead = s.robHead + 1 ∧ SizeAfter s t 1 := by
    rcases step_active ha ht with ⟨hmis, _⟩ | ⟨ex, cm, _, hcm, _, hcase⟩
    · exact absurd hmis hmispredicts
    obtain rfl : CommitResult.retired .halt b = cm := Except.ok.inj (hb.symm.trans hcm)
    rcases hcase with ⟨hno, rfl⟩ | ⟨w, i, hw, _, rfl⟩
    · simp [applyCommit, commitEffect_halted, commitEffect_regs, commitEffect_mem, SizeAfter, hno]
    · have hissues : ∃ w, IssuesWord s w := ⟨w, hw⟩
      simp [applyCommit, commitEffect_halted, commitEffect_regs, commitEffect_mem, SizeAfter, hissues]
  obtain ⟨hhalted, hregs, hmem, hhead, hsize⟩ := hfields
  have hread : ∀ r : Reg, readReg t r = readReg s r := fun r => by simp only [readReg, hregs]
  refine ⟨t, ht, hhalted, hread, fun a => by rw [hmem], by rw [exitValue, hread, retReg], hhead, hsize, fun hc => ?_⟩
  obtain ⟨h1, _⟩ := hc.sentinel_alone hr.1 hhalt
  have hstep := ht.symm.trans (hc.step_sentinel ha hr hhalt)
  have htsize : t.robSize = 0 := by cases hstep; simp [h1]
  have htfatal : t.fatal = false := by cases hstep; simpa using ha.1.2
  exact ⟨h1, htsize, htfatal, State.draining_of_halted hhalted, (hc.step_active ha ht).alias_of_empty htsize (by decide)⟩

/-- Settles O38: a ready head retires; the entry of a busy one is eligible and the oldest, so it is selected and fires. -/
theorem headAlwaysProgresses : Obligations.HeadAlwaysProgresses := by
  intro s hm hc ha hchoices h0
  obtain ⟨t, ht⟩ := step_full hm ha
  refine ⟨t, ht, ?_⟩
  rcases step_active ha ht with ⟨⟨⟨_, hready⟩, _⟩, rfl⟩ | ⟨ex, cm, hex, hcm, hne, hcase⟩
  · exact ⟨fun _ _ => .inr rfl, fun hb => by simp [hready] at hb⟩
  constructor
  · intro hready hop
    rcases commit_cases hcm with ⟨_, h | h | h⟩ | ⟨_, _, ⟨rfl, _⟩ | ⟨c, rfl, _⟩⟩
    · exact absurd h h0
    · simp [show (robAt s s.robHead).busy = false from hready] at h
    · exact absurd ((RobEntry.commitClass_eq_never_iff _).1 h).2 hop
    · exact absurd rfl (hne _)
    · rcases hcase with ⟨_, rfl⟩ | ⟨w, i, _, _, rfl⟩ <;> simp [applyCommit]
  · intro hb
    obtain ⟨p, hsel, hdest⟩ := hc.select_head hchoices h0 hb
    refine ⟨p, hsel, hdest, ?_⟩
    have hopeq := hc.head_op hsel hdest
    by_cases hop : (head s).op = .invalid
    · obtain rfl : ExecResult.fatal = ex :=
        Except.ok.inj (((execute_fatal_iff s).2 ⟨p, hsel, hopeq.trans hop⟩).symm.trans hex)
      refine .inl ⟨hop, ?_⟩
      rcases hcase with ⟨_, rfl⟩ | ⟨w, i, _, _, rfl⟩ <;> simp
    · obtain ⟨f, hf, _, hfdest⟩ := execute_fired hm hsel (hopeq ▸ hop)
      obtain rfl : ExecResult.fired f = ex := Except.ok.inj (hf.symm.trans hex)
      have hfired : (robAt (committed s (.fired f) cm) s.robHead).busy = false := by
        rw [robAt_applyCommit, applyExecute, ← Bool.not_eq_true, robAt_applyFire_busy_iff]
        exact fun h => h.1 (hdest.symm.trans hfdest.symm)
      rcases hcase with ⟨_, rfl⟩ | ⟨w, i, ⟨_, _, hroom, _⟩, _, rfl⟩
      · exact .inr hfired
      · rw [robAt_applyIssue_of_occupied (robSize_lt_of_not_full hc.size_le (by simpa [robFull] using hroom)) (occupied_head h0)]
        exact .inr hfired

/-- Settles O54: issued into the empty pipeline, the sentinel is alone in flight; it fires, and its commit does nothing but halt. -/
theorem sentinelCompletes : Obligations.SentinelCompletes := by
  intro s hd hm
  obtain ⟨j, hexec, hc1⟩ := hd.exec .halt
  obtain ⟨⟨hhalted, hfatal⟩, hflush⟩ := hd.active
  generalize ht1 : applyIssue s s none false (planOf .halt s) j = t1 at hexec hc1
  have ha1 : Active t1 := by subst ht1; exact ⟨⟨hhalted, hfatal⟩, hflush⟩
  have hm1 : FullMemory t1 := by subst ht1; exact hm
  have hsize1 : t1.robSize = 1 := by subst ht1; simp [hd.size]
  have hhead1 : head t1 = issuedRob s (planOf .halt s) := by
    subst ht1
    rw [head, applyIssue_robHead, ← tail_of_empty hd.size, robAt_applyIssue_tail]
  have hhalt1 : (head t1).halt = true := by rw [hhead1]; rfl
  have hdrain1 : t1.draining = true := (hc1.sentinel_alone (by simp [hsize1]) hhalt1).2
  obtain ⟨f, hstep1, hready2⟩ := hc1.step_sole hm1 ha1 (by simp [fetchActs, hdrain1]) hsize1 (by rw [hhead1]; rfl)
    (by rw [hhead1]; exact (by decide : Op.halt ≠ .invalid))
  have hc2 : Consistent (applyFire f t1) := hc1.step_active ha1 hstep1
  have hstep2 := hc2.step_sentinel ha1 hready2 ((robAt_applyFire_halt f t1 _).trans hhalt1)
  refine ⟨t1, _, _, ⟨hexec, hstep1, hstep2⟩, hdrain1, State.draining_of_halted rfl, ?_⟩
  subst ht1
  simp [hd.size, hfatal, exitValue, readReg, retReg, planOf, haltPlan, plainPlan]

/-- Settles O13: the fields of the reset state are the table's. -/
theorem resetValues : Obligations.ResetValues := by
  refine ⟨fun p m => ⟨?_, rfl, ?_, ?_, rfl, rfl, rfl, rfl, rfl, rfl, rfl, rfl, rfl⟩, rfl, rfl, fun a => rfl⟩
  · intro r
    simp [readReg, State.resetWith]
  · intro r
    simp [State.resetWith, RatEntry.clear]
  · rintro ⟨st, i⟩
    cases st <;> simp [State.resetWith, entryAt, stationBank, StationEntry.clear]

end Sys2Proof.Proofs
end

section
/-! PROOFS, `20_memory.md`. Which accesses a cycle refuses, and that none is with the whole address space as memory; the bytes of a
store, and what the issue of a cycle adds to the writes of Execute and Commit (R60, R62, R124, R150, R298, R335). -/

namespace Sys2Proof.Machine

open Safety

/-! ### The operations that access memory (R98, R292) -/

theorem Op.isLoad_iff (op : Op) : op.isLoad = true ↔ op = .lb ∨ op = .lh ∨ op = .lw ∨ op = .lbu ∨ op = .lhu := by
  cases op <;> simp [Op.isLoad]

theorem Op.commitClass_eq_store_iff (op : Op) : op.commitClass = .store ↔ op.isStore = true := by
  cases op <;> simp [Op.commitClass, Op.isStore]

/-- The mark overrides the operation, so a marked entry is no store. -/
theorem RobEntry.commitClass_eq_store_iff (e : RobEntry) : e.commitClass = .store ↔ e.halt = false ∧ e.op.isStore = true := by
  cases h : e.halt <;> simp [RobEntry.commitClass, h, Op.commitClass_eq_store_iff]

/-! ### The read ports (R60, R129, R182) -/

theorem readPort_of_inMemory {s : State} {k : Access} {a : Word} {n : Width} (h : inMemory s.params a n = true) :
    readPort s k a n = .ok (memRead s.mem a n) := if_pos h

theorem readPort_beyond {s : State} {k : Access} {a : Word} {n : Width} (h : inMemory s.params a n = false) :
    readPort s k a n = .error (.beyondMemory k a) := if_neg (by simp [h])

/-- A load fires by a read of its own bytes through the load port, whatever it makes of them (R176, R182). -/
theorem fireEntry_of_isLoad (s : State) {e : StationEntry} (h : e.op.isLoad = true) :
    ∃ extend : Word → Word, fireEntry s e =
      (readPort s .load (effectiveAddress e) e.op.width).map fun raw => .result (extend raw) none := by
  obtain hop | hop | hop | hop | hop := (Op.isLoad_iff e.op).1 h
  · exact ⟨sext8, by rw [fireEntry, hop]; rfl⟩
  · exact ⟨sext16, by rw [fireEntry, hop]; rfl⟩
  · exact ⟨id, by rw [fireEntry, hop]; rfl⟩
  · exact ⟨zext8, by rw [fireEntry, hop]; rfl⟩
  · exact ⟨zext16, by rw [fireEntry, hop]; rfl⟩

/-- An operation that is no load reads no memory when it fires, and is never refused (R182, R183). -/
theorem fireEntry_of_not_isLoad (s : State) {e : StationEntry} (h : e.op.isLoad = false) : ∃ c, fireEntry s e = .ok c := by
  unfold fireEntry
  cases hop : e.op <;> simp [hop, Op.isLoad] at h ⊢

/-! ### The refusals of Execute and Commit (R60) -/

/-- Execute is refused when it selects a load beyond memory. -/
theorem execute_of_load_beyond {s : State} {p : Pick} (hsel : select s = some p) (hload : (entryAt s p).op.isLoad = true)
    (hout : inMemory s.params (effectiveAddress (entryAt s p)) (entryAt s p).op.width = false) :
    execute s = .error (.beyondMemory .load (effectiveAddress (entryAt s p))) := by
  obtain ⟨extend, hfire⟩ := fireEntry_of_isLoad s hload
  rw [readPort_beyond hout] at hfire
  simp [execute, hsel, hfire, Except.map]

/-- Execute is not refused unless it selects a load beyond memory. -/
theorem execute_ok {s : State} (hin : ∀ p : Pick, select s = some p → (entryAt s p).op.isLoad = true →
    inMemory s.params (effectiveAddress (entryAt s p)) (entryAt s p).op.width = true) : ∃ ex, execute s = .ok ex := by
  cases hsel : select s with
  | none => exact ⟨.idle, by simp [execute, hsel]⟩
  | some p =>
    obtain ⟨c, hfire⟩ : ∃ c, fireEntry s (entryAt s p) = .ok c := by
      cases hload : (entryAt s p).op.isLoad with
      | false => exact fireEntry_of_not_isLoad s hload
      | true =>
        obtain ⟨extend, hfire⟩ := fireEntry_of_isLoad s hload
        exact ⟨_, by rw [hfire, readPort_of_inMemory (hin p hsel hload)]; rfl⟩
    cases c <;> simp [execute, hsel, hfire]

/-- What Commit answers when the head is a ready store (R60, R298). -/
theorem commit_of_store {s : State} (hready : HeadReady s) (hmark : (head s).halt = false) (hstore : (head s).op.isStore = true) :
    commit s = if inMemory s.params (head s).addr (head s).op.width then .ok (.retired .store (head s))
      else .error (.beyondMemory .store (head s).addr) := by
  obtain ⟨hsize, hbusy⟩ := hready
  have hclass : (head s).commitClass = .store := (RobEntry.commitClass_eq_store_iff _).2 ⟨hmark, hstore⟩
  rw [head] at hbusy hclass ⊢
  rw [commit, if_neg hsize]
  simp [hbusy, hclass]

/-! ### The refusals of a step (R60, R335) -/

theorem activeCycle_of_execute_error {s : State} {r : Refusal} (hex : execute s = .error r) (h : Option IssuePlan) :
    activeCycle s h = .refused r := by simp [activeCycle, hex]

theorem activeCycle_of_commit_error {s : State} {ex : ExecResult} {r : Refusal} (hex : execute s = .ok ex)
    (hcm : commit s = .error r) (h : Option IssuePlan) : activeCycle s h = .refused r := by simp [activeCycle, hex, hcm]

theorem step_of_fetch_error {s : State} {r : Refusal} (hf : fetchActs s = true) (hw : fetchWord s = .error r) :
    step s = .refused r := by simp [step, hf, hw]

/-- A step whose Execute or Commit is refused is refused, and for that reason unless the fetch is refused before it. -/
theorem step_of_activeCycle_refused {s : State} {r : Refusal} (ha : Active s) (hr : ∀ h, activeCycle s h = .refused r) :
    ∃ r', step s = .refused r' ∧ ((fetchActs s = false ∨ inMemory s.params s.pc .word = true) → r' = r) := by
  cases hf : fetchActs s with
  | false => exact ⟨r, (step_of_not_fetchActs ha hf).trans (hr none), fun _ => rfl⟩
  | true =>
    cases hpc : inMemory s.params s.pc .word with
    | true => exact ⟨r, (step_of_fetchWord hf (readPort_of_inMemory hpc)).trans (hr _), fun _ => rfl⟩
    | false => exact ⟨_, step_of_fetch_error hf (readPort_beyond hpc), by simp⟩

/-- No cycle is refused when `MEM_BYTES` is its default, whatever Fetch hands over and whether the stages act or not. -/
theorem cycle_full {s : State} (hm : FullMemory s) (h : Option IssuePlan) : ∃ t, cycle s h = .next t := by
  by_cases ha : Active s
  · rw [cycle_of_active ha]
    split
    · exact activeCycle_full hm none
    · exact activeCycle_full hm h
  · rw [active_iff, not_and, Bool.not_eq_false] at ha
    unfold cycle
    cases hterm : terminal s with
    | true => exact ⟨s, if_pos rfl⟩
    | false => exact ⟨{ s with flush := false }, by simp [ha hterm]⟩

/-! ### The bytes of a store (R62) -/

/-- `MemWrite` writes byte `k` of the value at offset `k`. -/
theorem memByte_memWrite_inside {m : Mem} (hm : m.wf = true) (base : Word) (n : Width) (v : Word) {k : Nat} (hk : k < n.bytes) :
    memByte (memWrite m base n v) (base + BitVec.ofNat 32 k) = v.extractLsb' (8 * k) 8 := by
  cases n with
  | byte =>
    obtain rfl : k = 0 := by simpa [Width.bytes] using hk
    simp [memByte_memWrite_byte hm]
  | half =>
    rw [memByte_memWrite_half hm]
    obtain rfl | rfl : k = 0 ∨ k = 1 := by simp only [Width.bytes] at hk; omega
    all_goals simp
  | word =>
    rw [memByte_memWrite_word hm]
    obtain rfl | rfl | rfl | rfl : k = 0 ∨ k = 1 ∨ k = 2 ∨ k = 3 := by simp only [Width.bytes] at hk; omega
    all_goals simp

/-! ### The issue of a cycle, on top of the writes of Execute and Commit (R124, R150) -/

theorem planOf_rd (i : Instr) (s : State) : (planOf i s).rd = (recordOf i).rd := by
  cases i <;> rfl

theorem wordPlan_rd (s : State) (w : Word) : (wordPlan s w).rd = (decodeRecord w).rd := by
  unfold wordPlan decodeRecord
  cases decodeWord w with
  | ok i => exact planOf_rd i s
  | error r => rfl

/-- A step that issues `w` claims what the plan of `w` claims (R150). -/
theorem claims_iff {s : State} {w : Word} (hi : IssuesWord s w) (r : Reg) :
    Claims s r ↔ (wordPlan s w).op.writesReg = true ∧ (wordPlan s w).rd ≠ 0 ∧ (wordPlan s w).rd = r := by
  rw [wordPlan_op, wordPlan_rd]
  constructor
  · rintro ⟨hr, w', ⟨_, hw', _⟩, hwrites, rfl⟩
    obtain ⟨_, hw, _⟩ := hi
    cases hw.symm.trans hw'
    exact ⟨hwrites, hr, rfl⟩
  · rintro ⟨hwrites, hr, rfl⟩
    exact ⟨hr, w, hi, hwrites, rfl⟩

/-- `t` is `n` with the issue of the step from `s` on top, in the fields that Commit writes too: the counts of the window add up and a
claim wins over a clear (R124); registers, memory, `rob.head` and the counter stay as they are in `n`. -/
structure IssuedOver (s n t : State) : Prop where
  regs : t.regs = n.regs
  mem : t.mem = n.mem
  robHead : t.robHead = n.robHead
  predCtr : t.predCtr = n.predCtr
  size_issued : (∃ w, IssuesWord s w) → t.robSize = n.robSize + 1
  size_held : (¬ ∃ w, IssuesWord s w) → t.robSize = n.robSize
  alias_claimed : ∀ r, Claims s r → Bank.get t.rat r = { busy := true, id := tail s }
  alias_kept : ∀ r, ¬ Claims s r → Bank.get t.rat r = Bank.get n.rat r

theorem issuedOver_refl {s : State} (n : State) (hnone : ¬ ∃ w, IssuesWord s w) : IssuedOver s n n where
  regs := rfl
  mem := rfl
  robHead := rfl
  predCtr := rfl
  size_issued h := absurd h hnone
  size_held _ := rfl
  alias_claimed := fun _ ⟨_, w, hi, _⟩ => absurd ⟨w, hi⟩ hnone
  alias_kept _ _ := rfl

theorem issuedOver_applyIssue {s : State} {w : Word} (hi : IssuesWord s w) (n : State) (cdb : Option Cdb) (red : Bool) (i : Slot) :
    IssuedOver s n (applyIssue s n cdb red (wordPlan s w) i) where
  regs := rfl
  mem := rfl
  robHead := rfl
  predCtr := rfl
  size_issued _ := rfl
  size_held h := absurd ⟨w, hi⟩ h
  alias_claimed r hr := by rw [applyIssue_rat, get_claim, if_pos ((claims_iff hi r).1 hr)]
  alias_kept r hr := by rw [applyIssue_rat, get_claim, if_neg (mt (claims_iff hi r).2 hr)]

/-- In a step in which the head retires the issue goes on top of the writes of Execute and of that retirement. -/
theorem step_of_retired {s t : State} (ha : Active s) (h : step s = .next t) {c : CommitClass} {b : RobEntry}
    (hcm : commit s = .ok (.retired c b)) : ∃ ex, IssuedOver s (committed s ex (.retired c b)) t := by
  rcases step_active ha h with ⟨hmis, _⟩ | ⟨ex, cm, _, hcm', _, ⟨hnone, rfl⟩ | ⟨w, i, hi, _, rfl⟩⟩
  · obtain ⟨b', hb'⟩ := (commit_mispredicted_iff s).2 hmis
    cases hcm.symm.trans hb'
  · cases hcm.symm.trans hcm'
    exact ⟨ex, issuedOver_refl _ hnone⟩
  · cases hcm.symm.trans hcm'
    exact ⟨ex, issuedOver_applyIssue hi _ _ _ i⟩

/-- `rob.size` after a step in which the head retires (R124, R291). -/
theorem IssuedOver.sizeAfter {s n t : State} (h : IssuedOver s n t) (hn : n.robSize = s.robSize - 1) : SizeAfter s t 1 :=
  ⟨fun hi => by rw [h.size_issued hi, hn, sub_add_eq_add_sub], fun hi => by rw [h.size_held hi, hn]⟩

/-- The aliases after a step whose commit clears none (R298): no retirement has register 0 as the alias to clear. -/
theorem IssuedOver.aliasesAfterCommit_zero {s n t : State} (h : IssuedOver s n t) (hn : n.rat = s.rat) : AliasesAfterCommit s t 0 :=
  ⟨h.alias_claimed, fun _ _ ⟨h0, hne, _⟩ => absurd h0 hne, fun r hr _ => by rw [h.alias_kept r hr, hn]⟩

end Sys2Proof.Machine

namespace Sys2Proof.Proofs

open Sys2Proof.Machine Sys2Proof.Safety

/-- Settles O11: a step and a meaning are each a cycle, and no cycle is refused; the fetch of an active step is not either. -/
theorem nothingRefusedWithFullMemory : Obligations.NothingRefusedWithFullMemory := by
  intro s hm
  refine ⟨?_, fun i => exec_eq_cycle i s ▸ cycle_full hm _⟩
  by_cases ha : Active s
  · exact step_full hm ha
  · have hf : fetchActs s = false := Bool.eq_false_iff.2 fun hf => ha ((fetchActs_iff s).1 hf).1
    have hstep : step s = cycle s none := by simp [step, hf]
    exact hstep ▸ cycle_full hm none

/-- Settles O12: the fetch comes before the cycle, and in the cycle Execute before Commit, so the first refusal of the three is named. -/
theorem accessBeyondMemoryRefused : Obligations.AccessBeyondMemoryRefused := by
  refine ⟨fun s hf hout => step_of_fetch_error hf (readPort_beyond hout), ?_, ?_⟩
  · intro s p ha hsel hload hout
    exact step_of_activeCycle_refused ha (activeCycle_of_execute_error (execute_of_load_beyond hsel hload hout))
  · intro s ha hready hmark hstore hout
    have hcm : commit s = .error (.beyondMemory .store (head s).addr) := by simp [commit_of_store hready hmark hstore, hout]
    cases hex : execute s with
    | ok ex =>
      obtain ⟨r, hstep, hr⟩ := step_of_activeCycle_refused ha (activeCycle_of_commit_error hex hcm)
      exact ⟨r, hstep, fun hfetch _ => hr hfetch⟩
    | error r =>
      obtain ⟨r', hstep, _⟩ := step_of_activeCycle_refused ha (activeCycle_of_execute_error hex)
      refine ⟨r', hstep, fun _ hin => ?_⟩
      obtain ⟨ex, hok⟩ := execute_ok hin
      cases hex.symm.trans hok

/-- Settles O25: the retirement of the store writes its bytes and moves the window; the issue on top of it adds its claim. -/
theorem storeCommit : Obligations.StoreCommit := by
  intro s hm hwf ha hready hmark hstore
  have hcm : commit s = .ok (.retired .store (head s)) := by simp [commit_of_store hready hmark hstore, inMemory_full hm]
  obtain ⟨t, hstep⟩ := step_full hm ha
  obtain ⟨ex, ht⟩ := step_of_retired ha hstep hcm
  have hregs : t.regs = s.regs := by simp [ht.regs, applyCommit, commitEffect]
  have hmem : t.mem = memWrite s.mem (head s).addr (head s).op.width (head s).value := by
    simp [ht.mem, applyCommit_mem_of_store]
  refine ⟨t, hstep, ?_, ?_, fun r => by simp [readReg, hregs], ?_, ?_, ?_, ?_⟩
  · intro a hout
    rw [hmem, memByte_memWrite_outside hwf _ _ _ _ hout]
  · intro k hk
    rw [hmem, memByte_memWrite_inside hwf _ _ _ hk]
  · simp [ht.robHead, applyCommit]
  · simp [ht.predCtr, applyCommit, commitEffect]
  · exact ht.aliasesAfterCommit_zero (by simp [applyCommit, commitEffect])
  · exact ht.sizeAfter (by simp [applyCommit])

end Sys2Proof.Proofs
end

section
/-! PROOFS, `30_encoding.md`. The decoder as one equation for each major opcode, the word packed from given fields, and the decoding of an
encoded instruction (R93 to R100). -/

namespace Sys2Proof

/-! ### The fields of the sentinel (R99) -/

theorem fieldOpcode_haltWord : fieldOpcode haltWord = 0x13#7 := by decide

theorem fieldFunct3_haltWord : fieldFunct3 haltWord = 0#3 := by decide

theorem ne_haltWord_of_opcode {w : Word} (h : fieldOpcode w ≠ 0x13#7) : w ≠ haltWord :=
  fun e => h (e ▸ fieldOpcode_haltWord)

theorem ne_haltWord_of_funct3 {w : Word} (h : fieldFunct3 w ≠ 0#3) : w ≠ haltWord :=
  fun e => h (e ▸ fieldFunct3_haltWord)

/-- In the I format the sentinel is exactly the word of `addi x10, x0, 255` (R99). -/
theorem packI_eq_haltWord_iff {imm : Word} {rs1 : Reg} {f3 : BitVec 3} {rd : Reg} {o : BitVec 7} (h : immFits12 imm = true) :
    packI imm rs1 f3 rd o = haltWord ↔ imm = 255 ∧ rs1 = 0 ∧ f3 = 0 ∧ rd = 10 ∧ o = 0x13 := by
  constructor
  · intro e
    refine ⟨?_, ?_, ?_, ?_, ?_⟩
    · rw [← immI_packI imm rs1 f3 rd o h, e]; decide
    · rw [← fieldRs1_packI imm rs1 f3 rd o, e]; decide
    · rw [← fieldFunct3_packI imm rs1 f3 rd o, e]; decide
    · rw [← fieldRd_packI imm rs1 f3 rd o, e]; decide
    · rw [← fieldOpcode_packI imm rs1 f3 rd o, e]; decide
  · rintro ⟨rfl, rfl, rfl, rfl, rfl⟩
    decide

/-! ### The decoder by major opcode (R96, R100) -/

section
variable {w : Word}

theorem decodeWord_haltWord : decodeWord haltWord = .ok .halt := rfl

theorem decodeWord_lui (h : fieldOpcode w = 0x37#7) : decodeWord w = .ok (.lui (fieldRd w) (immU w)) := by
  simp [decodeWord, h, ne_haltWord_of_opcode]

theorem decodeWord_auipc (h : fieldOpcode w = 0x17#7) : decodeWord w = .ok (.auipc (fieldRd w) (immU w)) := by
  simp [decodeWord, h, ne_haltWord_of_opcode]

theorem decodeWord_jal (h : fieldOpcode w = 0x6F#7) : decodeWord w = .ok (.jal (fieldRd w) (immJ w)) := by
  simp [decodeWord, h, ne_haltWord_of_opcode]

theorem decodeWord_jalr (h : fieldOpcode w = 0x67#7) : decodeWord w =
    if fieldFunct3 w = 0#3 then .ok (.jalr (fieldRd w) (fieldRs1 w) (immI w))
    else .error (.unknownFunct3 (fieldOpcode w) (fieldFunct3 w)) := by
  simp [decodeWord, h, ne_haltWord_of_opcode]

theorem decodeWord_branch (h : fieldOpcode w = 0x63#7) : decodeWord w = decodeBranch w := by
  simp [decodeWord, h, ne_haltWord_of_opcode]

theorem decodeWord_load (h : fieldOpcode w = 0x03#7) : decodeWord w = decodeLoad w := by
  simp [decodeWord, h, ne_haltWord_of_opcode]

theorem decodeWord_store (h : fieldOpcode w = 0x23#7) : decodeWord w = decodeStore w := by
  simp [decodeWord, h, ne_haltWord_of_opcode]

theorem decodeWord_opImm (hw : w ≠ haltWord) (h : fieldOpcode w = 0x13#7) : decodeWord w = decodeOpImm w := by
  simp [decodeWord, h, hw]

theorem decodeWord_op (h : fieldOpcode w = 0x33#7) : decodeWord w = decodeOp w := by
  simp [decodeWord, h, ne_haltWord_of_opcode]

/-- The nine major opcodes of R96. -/
def majorOpcodes : List (BitVec 7) := [0x37#7, 0x17#7, 0x6F#7, 0x67#7, 0x63#7, 0x03#7, 0x23#7, 0x13#7, 0x33#7]

theorem decodeWord_unknownOpcode (h : fieldOpcode w ∉ majorOpcodes) : decodeWord w = .error (.unknownOpcode (fieldOpcode w)) := by
  have hw : w ≠ haltWord := ne_haltWord_of_opcode fun e => h (by simp [e, majorOpcodes])
  simp only [majorOpcodes, List.mem_cons, List.not_mem_nil, or_false, not_or, ← BitVec.toNat_inj] at h
  simp only [decodeWord, if_neg hw]
  split <;> simp_all

/-- The major opcode of a word is one of the nine of R96 or unknown. -/
theorem fieldOpcode_cases (w : Word) : fieldOpcode w = 0x37#7 ∨ fieldOpcode w = 0x17#7 ∨ fieldOpcode w = 0x6F#7 ∨
    fieldOpcode w = 0x67#7 ∨ fieldOpcode w = 0x63#7 ∨ fieldOpcode w = 0x03#7 ∨ fieldOpcode w = 0x23#7 ∨
    fieldOpcode w = 0x13#7 ∨ fieldOpcode w = 0x33#7 ∨ fieldOpcode w ∉ majorOpcodes := by
  simp only [majorOpcodes, List.mem_cons, List.not_mem_nil, or_false]
  tauto

end

/-! ### A word is packed from its own fields (R93, R94), and its immediate fits its format (R95) -/

theorem packR_fields (w : Word) :
    packR (fieldFunct7 w) (fieldRs2 w) (fieldRs1 w) (fieldFunct3 w) (fieldRd w) (fieldOpcode w) = w := by
  apply BitVec.eq_of_getLsbD_eq
  intro i hi
  simp only [packR, fieldFunct7, fieldRs2, fieldRs1, fieldFunct3, fieldRd, fieldOpcode,
    BitVec.getLsbD_append, BitVec.getLsbD_extractLsb']
  interval_cases i <;> simp

theorem packI_fields (w : Word) : packI (immI w) (fieldRs1 w) (fieldFunct3 w) (fieldRd w) (fieldOpcode w) = w := by
  apply BitVec.eq_of_getLsbD_eq
  intro i hi
  simp only [packI, immI, fieldRs1, fieldFunct3, fieldRd, fieldOpcode,
    BitVec.getLsbD_append, BitVec.getLsbD_extractLsb', BitVec.getLsbD_signExtend]
  interval_cases i <;> simp

theorem packS_fields (w : Word) : packS (immS w) (fieldRs2 w) (fieldRs1 w) (fieldFunct3 w) (fieldOpcode w) = w := by
  apply BitVec.eq_of_getLsbD_eq
  intro i hi
  simp only [packS, immS, fieldRs2, fieldRs1, fieldFunct3, fieldOpcode,
    BitVec.getLsbD_append, BitVec.getLsbD_extractLsb', BitVec.getLsbD_signExtend]
  interval_cases i <;> simp

theorem packB_fields (w : Word) : packB (immB w) (fieldRs2 w) (fieldRs1 w) (fieldFunct3 w) (fieldOpcode w) = w := by
  apply BitVec.eq_of_getLsbD_eq
  intro i hi
  simp only [packB, immB, fieldRs2, fieldRs1, fieldFunct3, fieldOpcode,
    BitVec.getLsbD_append, BitVec.getLsbD_extractLsb', BitVec.getLsbD_signExtend]
  interval_cases i <;> simp

theorem packU_fields (w : Word) : packU (immU w) (fieldRd w) (fieldOpcode w) = w := by
  apply BitVec.eq_of_getLsbD_eq
  intro i hi
  simp only [packU, immU, fieldRd, fieldOpcode,
    BitVec.getLsbD_append, BitVec.getLsbD_extractLsb']
  interval_cases i <;> simp

theorem packJ_fields (w : Word) : packJ (immJ w) (fieldRd w) (fieldOpcode w) = w := by
  apply BitVec.eq_of_getLsbD_eq
  intro i hi
  simp only [packJ, immJ, fieldRd, fieldOpcode,
    BitVec.getLsbD_append, BitVec.getLsbD_extractLsb', BitVec.getLsbD_signExtend]
  interval_cases i <;> simp

/-- Sign extension keeps the low bits. -/
theorem setWidth_signExtend {n m : Nat} (x : BitVec n) (h : n ≤ m) : (x.signExtend m).setWidth n = x := by
  ext i hi
  rw [BitVec.getElem_setWidth, BitVec.getLsbD_signExtend, if_pos hi, BitVec.getLsbD_eq_getElem hi]
  simp [show i < m by omega]

theorem immFits12_immI (w : Word) : immFits12 (immI w) = true := by simp [immFits12, immI, setWidth_signExtend]

theorem immFits12_immS (w : Word) : immFits12 (immS w) = true := by simp [immFits12, immS, setWidth_signExtend]

theorem immFitsBranch_immB (w : Word) : immFitsBranch (immB w) = true := by
  have heven : (immB w).getLsbD 0 = false := by
    simp only [immB, BitVec.getLsbD_signExtend, BitVec.getLsbD_append]
    simp
  rw [immFitsBranch, heven, immB, setWidth_signExtend _ (by decide)]
  simp

theorem immFitsJump_immJ (w : Word) : immFitsJump (immJ w) = true := by
  have heven : (immJ w).getLsbD 0 = false := by
    simp only [immJ, BitVec.getLsbD_signExtend, BitVec.getLsbD_append]
    simp
  rw [immFitsJump, heven, immJ, setWidth_signExtend _ (by decide)]
  simp

theorem immFitsUpper_immU (w : Word) : immFitsUpper (immU w) = true := by
  rw [immFitsUpper, beq_iff_eq]
  apply BitVec.eq_of_getLsbD_eq
  intro i hi
  simp only [immU, BitVec.getLsbD_setWidth, BitVec.getLsbD_append, hi]
  simp

/-! ### Decoding an encoded instruction -/

/-- Only the sentinel's own word is taken for the sentinel: an ADDI is told apart by well-formedness, the others by a field (R99). -/
theorem encode_ne_haltWord {i : Instr} (hwf : i.wf = true) (hi : i ≠ .halt) : encode i ≠ haltWord := by
  cases i with
  | halt => exact absurd rfl hi
  | addi rd rs1 imm =>
    obtain ⟨hfit, hsent⟩ : immFits12 imm = true ∧ isSentinelAddi rd rs1 imm = false := by simpa [Instr.wf] using hwf
    intro e
    obtain ⟨rfl, rfl, -, rfl, -⟩ := (packI_eq_haltWord_iff hfit).1 e
    exact absurd hsent (by decide)
  | slti | sltiu | xori | ori | andi | slli | srli | srai => exact ne_haltWord_of_funct3 (by simp [encode])
  | _ => exact ne_haltWord_of_opcode (by simp [encode])

theorem decodeWord_encode {i : Instr} (hwf : i.wf = true) : decodeWord (encode i) = .ok i := by
  by_cases hi : i = .halt
  · rw [hi]
    exact decodeWord_haltWord
  have hw : encode i ≠ haltWord := encode_ne_haltWord hwf hi
  cases i with
  | halt => exact absurd rfl hi
  | lui rd imm | auipc rd imm => simp [encode, decodeWord_lui, decodeWord_auipc, immU_packU imm _ _ hwf]
  | jal rd imm => simp [encode, decodeWord_jal, immJ_packJ imm _ _ hwf]
  | jalr rd rs1 imm => simp [encode, decodeWord_jalr, immI_packI imm _ _ _ _ hwf]
  | beq rs1 rs2 imm | bne rs1 rs2 imm | blt rs1 rs2 imm | bge rs1 rs2 imm | bltu rs1 rs2 imm | bgeu rs1 rs2 imm =>
    simp [encode, decodeWord_branch, decodeBranch, immB_packB imm _ _ _ _ hwf]
  | lb rd rs1 imm | lh rd rs1 imm | lw rd rs1 imm | lbu rd rs1 imm | lhu rd rs1 imm =>
    simp [encode, decodeWord_load, decodeLoad, immI_packI imm _ _ _ _ hwf]
  | sb rs1 rs2 imm | sh rs1 rs2 imm | sw rs1 rs2 imm =>
    simp [encode, decodeWord_store, decodeStore, immS_packS imm _ _ _ _ hwf]
  | addi rd rs1 imm =>
    have hfit : immFits12 imm = true := by simp_all [Instr.wf]
    rw [decodeWord_opImm hw (by simp [encode])]
    simp [encode, decodeOpImm, immI_packI imm _ _ _ _ hfit]
  | slti rd rs1 imm | sltiu rd rs1 imm | xori rd rs1 imm | ori rd rs1 imm | andi rd rs1 imm =>
    rw [decodeWord_opImm hw (by simp [encode])]
    simp [encode, decodeOpImm, immI_packI imm _ _ _ _ hwf]
  | slli rd rs1 shamt | srli rd rs1 shamt | srai rd rs1 shamt =>
    rw [decodeWord_opImm hw (by simp [encode])]
    simp [encode, decodeOpImm]
  | _ => simp [encode, decodeWord_op, decodeOp]

/-- A word is read as the instruction it encodes. -/
theorem decodeWord_of_encode_eq {w : Word} {i : Instr} (hwf : i.wf = true) (h : encode i = w) : decodeWord w = .ok i :=
  h ▸ decodeWord_encode hwf

end Sys2Proof

namespace Sys2Proof.Proofs

/-- Settles O1: each format holds its fields and its immediate where the decoder of its opcode looks for them. -/
theorem decodeOfEncode : Obligations.DecodeOfEncode := fun _ => decodeWord_encode

/-- Settles O6: each word is the encoding of the instruction named for it. -/
theorem sampleWordsDecode : Obligations.SampleWordsDecode := by
  refine ⟨?_, ?_, ?_, ?_, ?_, ?_, ?_, ?_, ?_, ?_⟩ <;> exact decodeWord_of_encode_eq (by decide) (by decide)

end Sys2Proof.Proofs
end

section
/-! PROOFS, `30_encoding.md`. What decoding a word answers: the encoding of a well-formed instruction, or a rejection, and that exactly for
the words of R102 (R97, R99, R101, R102). -/

namespace Sys2Proof

/-! ### What decoding a word answers (R97, R102) -/

/-- `d` is a right decoding of `w`: either `w` is unrecognised and rejected, or it is recognised and the encoding of the well-formed
instruction that `d` answers. -/
def IsDecodingOf (w : Word) (d : Except DecodeReject Instr) (unrecognised : Prop) : Prop :=
  match d with
  | .ok i => ¬ unrecognised ∧ i.wf = true ∧ encode i = w
  | .error _ => unrecognised

theorem isDecodingOf_ok {w : Word} {i : Instr} {p : Prop} : IsDecodingOf w (.ok i) p ↔ ¬ p ∧ i.wf = true ∧ encode i = w := Iff.rfl

theorem isDecodingOf_error {w : Word} {r : DecodeReject} {p : Prop} : IsDecodingOf w (.error r) p ↔ p := Iff.rfl

theorem fieldFunct3_cases (w : Word) : fieldFunct3 w = 0#3 ∨ fieldFunct3 w = 1#3 ∨ fieldFunct3 w = 2#3 ∨ fieldFunct3 w = 3#3 ∨
    fieldFunct3 w = 4#3 ∨ fieldFunct3 w = 5#3 ∨ fieldFunct3 w = 6#3 ∨ fieldFunct3 w = 7#3 := by
  generalize fieldFunct3 w = f3
  revert f3
  decide

section
variable {w : Word}

theorem decodeBranch_isDecodingOf (ho : fieldOpcode w = 0x63#7) : IsDecodingOf w (decodeBranch w) (fieldFunct3 w ∈ [2#3, 3#3]) := by
  have hw := packB_fields w
  rcases fieldFunct3_cases w with hf | hf | hf | hf | hf | hf | hf | hf <;> rw [ho, hf] at hw <;>
    simp [decodeBranch, hf, isDecodingOf_ok, isDecodingOf_error, encode, hw, Instr.wf, immFitsBranch_immB]

theorem decodeLoad_isDecodingOf (ho : fieldOpcode w = 0x03#7) :
    IsDecodingOf w (decodeLoad w) (fieldFunct3 w ∈ [3#3, 6#3, 7#3]) := by
  have hw := packI_fields w
  rcases fieldFunct3_cases w with hf | hf | hf | hf | hf | hf | hf | hf <;> rw [ho, hf] at hw <;>
    simp [decodeLoad, hf, isDecodingOf_ok, isDecodingOf_error, encode, hw, Instr.wf, immFits12_immI]

theorem decodeStore_isDecodingOf (ho : fieldOpcode w = 0x23#7) :
    IsDecodingOf w (decodeStore w) (fieldFunct3 w ∈ [3#3, 4#3, 5#3, 6#3, 7#3]) := by
  have hw := packS_fields w
  rcases fieldFunct3_cases w with hf | hf | hf | hf | hf | hf | hf | hf <;> rw [ho, hf] at hw <;>
    simp [decodeStore, hf, isDecodingOf_ok, isDecodingOf_error, encode, hw, Instr.wf, immFits12_immS]

/-- A word with the fields of `addi x10, x0, 255` is the sentinel (R99). -/
theorem isSentinelAddi_of_ne_haltWord (hw : w ≠ haltWord) (ho : fieldOpcode w = 0x13#7) (hf : fieldFunct3 w = 0#3) :
    isSentinelAddi (fieldRd w) (fieldRs1 w) (immI w) = false := by
  refine Bool.eq_false_iff.2 fun h => hw ?_
  obtain ⟨⟨hrd, hrs1⟩, himm⟩ : (fieldRd w = retReg ∧ fieldRs1 w = 0) ∧ immI w = 255 := by
    simpa [isSentinelAddi] using h
  rw [← packI_fields w]
  exact (packI_eq_haltWord_iff (immFits12_immI w)).2 ⟨himm, hrs1, hf, hrd, ho⟩

theorem decodeOpImm_isDecodingOf (hne : w ≠ haltWord) (ho : fieldOpcode w = 0x13#7) :
    IsDecodingOf w (decodeOpImm w) ((fieldFunct3 w = 1#3 ∧ fieldFunct7 w ≠ 0#7) ∨
      (fieldFunct3 w = 5#3 ∧ fieldFunct7 w ∉ [0#7, 0x20#7])) := by
  have hI := packI_fields w
  have hR := packR_fields w
  rcases fieldFunct3_cases w with hf | hf | hf | hf | hf | hf | hf | hf <;> rw [ho, hf] at hI hR
  case inl => -- ADDI
    simp [decodeOpImm, hf, isDecodingOf_ok, encode, hI, Instr.wf, immFits12_immI, isSentinelAddi_of_ne_haltWord hne ho hf]
  case inr.inl => -- SLLI
    by_cases h7 : fieldFunct7 w = 0#7
    · rw [h7] at hR
      simp [decodeOpImm, hf, h7, isDecodingOf_ok, encode, hR, Instr.wf]
    · simp [decodeOpImm, hf, h7, isDecodingOf_error]
  case inr.inr.inr.inr.inr.inl => -- SRLI and SRAI
    by_cases h7 : fieldFunct7 w ∈ [0#7, 0x20#7]
    · rcases List.mem_pair.1 h7 with h7 | h7 <;> rw [h7] at hR <;>
        simp [decodeOpImm, hf, h7, isDecodingOf_ok, encode, hR, Instr.wf]
    · obtain ⟨h0, h20⟩ : fieldFunct7 w ≠ 0#7 ∧ fieldFunct7 w ≠ 0x20#7 := by simpa using h7
      simp [decodeOpImm, hf, h0, h20, isDecodingOf_error]
  all_goals simp [decodeOpImm, hf, isDecodingOf_ok, encode, hI, Instr.wf, immFits12_immI]

/-- The pairs of `funct3` and `funct7` of the ten register-register operations (R97 rows 28 to 37). -/
def opFuncts : List (BitVec 3 × BitVec 7) :=
  [(0#3, 0#7), (0#3, 0x20#7), (1#3, 0#7), (2#3, 0#7), (3#3, 0#7), (4#3, 0#7), (5#3, 0#7), (5#3, 0x20#7), (6#3, 0#7), (7#3, 0#7)]

theorem decodeOp_unknownFunct7 (h0 : fieldFunct7 w ≠ 0#7) (h20 : fieldFunct7 w ≠ 0x20#7) :
    decodeOp w = .error (.unknownFunct7 (fieldOpcode w) (fieldFunct3 w) (fieldFunct7 w)) := by
  rw [BitVec.toNat_ne] at h0 h20
  unfold decodeOp
  split <;> simp_all

theorem decodeOp_isDecodingOf (ho : fieldOpcode w = 0x33#7) :
    IsDecodingOf w (decodeOp w) ((fieldFunct3 w, fieldFunct7 w) ∉ opFuncts) := by
  have hw := packR_fields w
  by_cases h7 : fieldFunct7 w ∈ [0#7, 0x20#7]
  · rcases List.mem_pair.1 h7 with h7 | h7 <;>
      rcases fieldFunct3_cases w with hf | hf | hf | hf | hf | hf | hf | hf <;> rw [ho, hf, h7] at hw <;>
      simp [decodeOp, hf, h7, opFuncts, isDecodingOf_ok, isDecodingOf_error, encode, hw, Instr.wf]
  · obtain ⟨h0, h20⟩ : fieldFunct7 w ≠ 0#7 ∧ fieldFunct7 w ≠ 0x20#7 := by simpa using h7
    simp [decodeOp_unknownFunct7 h0 h20, isDecodingOf_error, opFuncts, h0, h20]

end

/-- The unrecognised words, by the cases (a) to (g) of R102. -/
def Unrecognised (w : Word) : Prop :=
  (fieldOpcode w ∉ majorOpcodes) ∨
  (fieldOpcode w = 0x67#7 ∧ fieldFunct3 w ≠ 0#3) ∨
  (fieldOpcode w = 0x63#7 ∧ fieldFunct3 w ∈ [2#3, 3#3]) ∨
  (fieldOpcode w = 0x03#7 ∧ fieldFunct3 w ∈ [3#3, 6#3, 7#3]) ∨
  (fieldOpcode w = 0x23#7 ∧ fieldFunct3 w ∈ [3#3, 4#3, 5#3, 6#3, 7#3]) ∨
  (fieldOpcode w = 0x13#7 ∧ ((fieldFunct3 w = 1#3 ∧ fieldFunct7 w ≠ 0#7) ∨
    (fieldFunct3 w = 5#3 ∧ fieldFunct7 w ∉ [0#7, 0x20#7]))) ∨
  (fieldOpcode w = 0x33#7 ∧ (fieldFunct3 w, fieldFunct7 w) ∉ opFuncts)

theorem decodeWord_isDecodingOf (w : Word) : IsDecodingOf w (decodeWord w) (Unrecognised w) := by
  by_cases hne : w = haltWord
  · subst hne
    rw [decodeWord_haltWord, isDecodingOf_ok]
    exact ⟨by unfold Unrecognised; decide, rfl, rfl⟩
  rcases fieldOpcode_cases w with ho | ho | ho | ho | ho | ho | ho | ho | ho | ho
  · have hw := packU_fields w
    rw [ho] at hw
    simp [decodeWord_lui ho, isDecodingOf_ok, Unrecognised, majorOpcodes, ho, Instr.wf, immFitsUpper_immU, encode, hw]
  · have hw := packU_fields w
    rw [ho] at hw
    simp [decodeWord_auipc ho, isDecodingOf_ok, Unrecognised, majorOpcodes, ho, Instr.wf, immFitsUpper_immU, encode, hw]
  · have hw := packJ_fields w
    rw [ho] at hw
    simp [decodeWord_jal ho, isDecodingOf_ok, Unrecognised, majorOpcodes, ho, Instr.wf, immFitsJump_immJ, encode, hw]
  · have hw := packI_fields w
    by_cases hf : fieldFunct3 w = 0#3
    · rw [ho, hf] at hw
      simp [decodeWord_jalr ho, hf, isDecodingOf_ok, Unrecognised, majorOpcodes, ho, Instr.wf, immFits12_immI, encode, hw]
    · simp [decodeWord_jalr ho, hf, isDecodingOf_error, Unrecognised, ho]
  · simpa [decodeWord_branch ho, Unrecognised, majorOpcodes, ho] using decodeBranch_isDecodingOf ho
  · simpa [decodeWord_load ho, Unrecognised, majorOpcodes, ho] using decodeLoad_isDecodingOf ho
  · simpa [decodeWord_store ho, Unrecognised, majorOpcodes, ho] using decodeStore_isDecodingOf ho
  · simpa [decodeWord_opImm hne ho, Unrecognised, majorOpcodes, ho] using decodeOpImm_isDecodingOf hne ho
  · simpa [decodeWord_op ho, Unrecognised, majorOpcodes, ho] using decodeOp_isDecodingOf ho
  · rw [decodeWord_unknownOpcode ho, isDecodingOf_error]
    exact .inl ho

theorem encode_of_decodeWord {w : Word} {i : Instr} (h : decodeWord w = .ok i) : i.wf = true ∧ encode i = w := by
  have hd := decodeWord_isDecodingOf w
  rw [h, isDecodingOf_ok] at hd
  exact hd.2

namespace Machine

theorem recordOf_op_ne_invalid (i : Instr) : (recordOf i).op ≠ .invalid := by
  cases i <;> simp [recordOf]

/-- The words of R102 are those with the INVALID record (R101). -/
theorem decodeRecord_op_eq_invalid_iff (w : Word) : (decodeRecord w).op = .invalid ↔ Unrecognised w := by
  have hd := decodeWord_isDecodingOf w
  unfold decodeRecord
  cases h : decodeWord w with
  | ok i =>
    rw [h, isDecodingOf_ok] at hd
    exact iff_of_false (recordOf_op_ne_invalid i) hd.1
  | error r =>
    rw [h, isDecodingOf_error] at hd
    exact iff_of_true rfl hd

end Machine

end Sys2Proof

namespace Sys2Proof.Proofs

open Sys2Proof.Machine

/-- Settles O2: every recognised word is packed from the fields the decoder reads. -/
theorem encodeOfDecode : Obligations.EncodeOfDecode := fun _ _ => encode_of_decodeWord

/-- Settles O4: a word that decodes to the sentinel is its encoding, and the ADDI with its fields is not well formed. -/
theorem onlyOneWordIsSentinel : Obligations.OnlyOneWordIsSentinel := by
  refine ⟨fun w => ⟨fun h => (encode_of_decodeWord h).2.symm, ?_⟩, fun w h => ?_, rfl, decodeWord_encode (by decide),
    decodeWord_encode (by decide)⟩
  · rintro rfl
    exact decodeWord_haltWord
  · exact absurd (encode_of_decodeWord h).1 (by decide)

/-- Settles O5: the INVALID record is that of the words of R102; every major opcode ends in 11, and none is among the named ones. -/
theorem unrecognisedWordsExhaustively : Obligations.UnrecognisedWordsExhaustively := by
  have hopcode : ∀ w : Word, fieldOpcode w ∉ majorOpcodes → (decodeRecord w).op = .invalid :=
    fun w h => (decodeRecord_op_eq_invalid_iff w).2 (.inl h)
  refine ⟨decodeRecord_op_eq_invalid_iff, fun w hlow => hopcode w fun hmem => hlow ?_, fun w hmem => hopcode w ?_,
    fun w ho h7 => ?_, hopcode _ (by decide), hopcode _ (by decide)⟩
  · have hall : ∀ o ∈ majorOpcodes, o.extractLsb' 0 2 = 3#2 := by decide
    rw [Laws.lowBits_eq]
    exact hall _ hmem
  · have hall : ∀ o ∈ [0x0F#7, 0x73#7, 0x2F#7, 0x07#7, 0x27#7, 0x43#7, 0x47#7, 0x4B#7, 0x4F#7, 0x53#7, 0x3B#7, 0x1B#7],
      o ∉ majorOpcodes := by decide
    exact hall _ hmem
  · rw [decodeRecord_op_eq_invalid_iff, Unrecognised, show fieldFunct7 w = 1#7 from h7]
    have hrow : (fieldFunct3 w, 1#7) ∉ opFuncts := by simp [opFuncts]
    exact .inr (.inr (.inr (.inr (.inr (.inr ⟨ho, hrow⟩)))))

end Sys2Proof.Proofs
end

section
/-! PROOFS, `30_encoding.md`. The rows of the opcode table by the fields they fix, the words that select them, and the operation a selected
row names (R97). -/

namespace Sys2Proof

/-! ### The rows of the opcode table by their fields (R97) -/

/-- The rows that the opcode alone selects. -/
def opcodeRow (o : BitVec 7) (op : Machine.Op) : Word × Word × Machine.Op := (packR 0 0 0 0 0 o, 0x0000007F, op)

/-- The rows that opcode and `funct3` select. -/
def funct3Row (o : BitVec 7) (f3 : BitVec 3) (op : Machine.Op) : Word × Word × Machine.Op := (packR 0 0 0 f3 0 o, 0x0000707F, op)

/-- The rows that opcode, `funct3` and `funct7` select. -/
def funct7Row (o : BitVec 7) (f3 : BitVec 3) (f7 : BitVec 7) (op : Machine.Op) : Word × Word × Machine.Op :=
  (packR f7 0 0 f3 0 o, 0xFE00707F, op)

/-- The rows 1 to 4: the U and J formats and JALR. -/
def upperJumpRows : List (Word × Word × Machine.Op) :=
  [opcodeRow 0x37 .lui, opcodeRow 0x17 .auipc, opcodeRow 0x6F .jal, funct3Row 0x67 0 .jalr]

/-- The rows 5 to 10. -/
def branchRows : List (Word × Word × Machine.Op) :=
  [funct3Row 0x63 0 .beq, funct3Row 0x63 1 .bne, funct3Row 0x63 4 .blt, funct3Row 0x63 5 .bge, funct3Row 0x63 6 .bltu,
    funct3Row 0x63 7 .bgeu]

/-- The rows 11 to 15. -/
def loadRows : List (Word × Word × Machine.Op) :=
  [funct3Row 0x03 0 .lb, funct3Row 0x03 1 .lh, funct3Row 0x03 2 .lw, funct3Row 0x03 4 .lbu, funct3Row 0x03 5 .lhu]

/-- The rows 16 to 18. -/
def storeRows : List (Word × Word × Machine.Op) :=
  [funct3Row 0x23 0 .sb, funct3Row 0x23 1 .sh, funct3Row 0x23 2 .sw]

/-- The rows 19 to 27. -/
def opImmRows : List (Word × Word × Machine.Op) :=
  [funct3Row 0x13 0 .addi, funct3Row 0x13 2 .slti, funct3Row 0x13 3 .sltiu, funct3Row 0x13 4 .xori, funct3Row 0x13 6 .ori,
    funct3Row 0x13 7 .andi, funct7Row 0x13 1 0x00 .slli, funct7Row 0x13 5 0x00 .srli, funct7Row 0x13 5 0x20 .srai]

/-- The rows 28 to 37. -/
def opRows : List (Word × Word × Machine.Op) :=
  [funct7Row 0x33 0 0x00 .add, funct7Row 0x33 0 0x20 .sub, funct7Row 0x33 1 0x00 .sll, funct7Row 0x33 2 0x00 .slt,
    funct7Row 0x33 3 0x00 .sltu, funct7Row 0x33 4 0x00 .xor, funct7Row 0x33 5 0x00 .srl, funct7Row 0x33 5 0x20 .sra,
    funct7Row 0x33 6 0x00 .or, funct7Row 0x33 7 0x00 .and]

theorem opcodeRows_eq : opcodeRows = upperJumpRows ++ (branchRows ++ (loadRows ++ (storeRows ++ (opImmRows ++ opRows)))) := by
  decide

theorem opcodeRows_op_nodup : (opcodeRows.map (·.2.2)).Nodup := by decide

theorem row_op_ne_invalid : ∀ row ∈ opcodeRows, row.2.2 ≠ Machine.Op.invalid := by decide

theorem packR_selected_inj {f7 g7 : BitVec 7} {f3 g3 : BitVec 3} {o p : BitVec 7} :
    packR f7 0 0 f3 0 o = packR g7 0 0 g3 0 p ↔ o = p ∧ f3 = g3 ∧ f7 = g7 := by
  constructor
  · intro h
    exact ⟨by simpa using congrArg fieldOpcode h, by simpa using congrArg fieldFunct3 h, by simpa using congrArg fieldFunct7 h⟩
  · rintro ⟨rfl, rfl, rfl⟩
    rfl

theorem and_opcodeMask (w : Word) : w &&& 0x0000007F = packR 0 0 0 0 0 (fieldOpcode w) := by
  apply BitVec.eq_of_getLsbD_eq
  intro i hi
  simp only [packR, fieldOpcode, BitVec.getLsbD_and, BitVec.getLsbD_append, BitVec.getLsbD_extractLsb']
  interval_cases i <;> simp

theorem and_funct3Mask (w : Word) : w &&& 0x0000707F = packR 0 0 0 (fieldFunct3 w) 0 (fieldOpcode w) := by
  apply BitVec.eq_of_getLsbD_eq
  intro i hi
  simp only [packR, fieldFunct3, fieldOpcode, BitVec.getLsbD_and, BitVec.getLsbD_append, BitVec.getLsbD_extractLsb']
  interval_cases i <;> simp

theorem and_funct7Mask (w : Word) : w &&& 0xFE00707F = packR (fieldFunct7 w) 0 0 (fieldFunct3 w) 0 (fieldOpcode w) := by
  apply BitVec.eq_of_getLsbD_eq
  intro i hi
  simp only [packR, fieldFunct7, fieldFunct3, fieldOpcode, BitVec.getLsbD_and, BitVec.getLsbD_append, BitVec.getLsbD_extractLsb']
  interval_cases i <;> simp

/-- "The word w selects the row" (R97). -/
def Selects (w : Word) (row : Word × Word × Machine.Op) : Prop := w &&& row.2.1 = row.1

/-- The word selects a row of the list. -/
def SelectsSome (w : Word) (rows : List (Word × Word × Machine.Op)) : Prop := ∃ row ∈ rows, Selects w row

section
variable {w : Word} {o : BitVec 7} {f3 : BitVec 3} {f7 : BitVec 7} {op : Machine.Op}

@[simp] theorem selects_opcodeRow : Selects w (opcodeRow o op) ↔ fieldOpcode w = o := by
  rw [Selects, opcodeRow, and_opcodeMask, packR_selected_inj]
  simp

@[simp] theorem selects_funct3Row : Selects w (funct3Row o f3 op) ↔ fieldOpcode w = o ∧ fieldFunct3 w = f3 := by
  rw [Selects, funct3Row, and_funct3Mask, packR_selected_inj]
  simp

@[simp] theorem selects_funct7Row :
    Selects w (funct7Row o f3 f7 op) ↔ fieldOpcode w = o ∧ fieldFunct3 w = f3 ∧ fieldFunct7 w = f7 := by
  rw [Selects, funct7Row, and_funct7Mask, packR_selected_inj]

@[simp] theorem not_selectsSome_nil : ¬ SelectsSome w [] := by simp [SelectsSome]

@[simp] theorem selectsSome_cons {row : Word × Word × Machine.Op} {rows : List (Word × Word × Machine.Op)} :
    SelectsSome w (row :: rows) ↔ Selects w row ∨ SelectsSome w rows := by
  simp [SelectsSome]

theorem selectsSome_append {rows rows' : List (Word × Word × Machine.Op)} :
    SelectsSome w (rows ++ rows') ↔ SelectsSome w rows ∨ SelectsSome w rows' := by
  simp [SelectsSome, or_and_right, exists_or]

@[simp] theorem opcodeRow_op : (opcodeRow o op).2.2 = op := rfl

@[simp] theorem funct3Row_op : (funct3Row o f3 op).2.2 = op := rfl

@[simp] theorem funct7Row_op : (funct7Row o f3 f7 op).2.2 = op := rfl

end

namespace Machine

theorem decodeRecord_of_error {w : Word} {r : DecodeReject} (h : decodeWord w = .error r) : decodeRecord w = invalidRecord := by
  simp [decodeRecord, h]

/-- A row that a word selects names its operation: opcode by opcode, the decoder's equation answers the row's instruction. -/
theorem decodeRecord_op_of_selects {w : Word} (hne : w ≠ haltWord) :
    ∀ row ∈ opcodeRows, Selects w row → (decodeRecord w).op = row.2.2 := by
  simp only [opcodeRows_eq, List.forall_mem_append]
  refine ⟨?_, ?_, ?_, ?_, ?_, ?_⟩
  · simp +contextual [upperJumpRows, decodeRecord, decodeWord_lui, decodeWord_auipc, decodeWord_jal, decodeWord_jalr, recordOf]
  · simp +contextual [branchRows, decodeRecord, decodeWord_branch, decodeBranch, recordOf]
  · simp +contextual [loadRows, decodeRecord, decodeWord_load, decodeLoad, recordOf]
  · simp +contextual [storeRows, decodeRecord, decodeWord_store, decodeStore, recordOf]
  · simp +contextual [opImmRows, decodeRecord, decodeWord_opImm hne, decodeOpImm, recordOf]
  · simp +contextual [opRows, decodeRecord, decodeWord_op, decodeOp, recordOf]

end Machine

/-- The word of every instruction but the sentinel selects a row. -/
theorem encode_selectsSome {i : Instr} (hi : i ≠ .halt) : SelectsSome (encode i) opcodeRows := by
  simp only [opcodeRows_eq, selectsSome_append]
  cases i with
  | halt => exact absurd rfl hi
  | lui | auipc | jal | jalr =>
    left
    simp [upperJumpRows, encode]
  | beq | bne | blt | bge | bltu | bgeu =>
    right; left
    simp [branchRows, encode]
  | lb | lh | lw | lbu | lhu =>
    right; right; left
    simp [loadRows, encode]
  | sb | sh | sw =>
    right; right; right; left
    simp [storeRows, encode]
  | addi | slti | sltiu | xori | ori | andi | slli | srli | srai =>
    right; right; right; right; left
    simp [opImmRows, encode]
  | _ =>
    right; right; right; right; right
    simp [opRows, encode]

/-- Every instruction word but the sentinel selects a row (R97). -/
theorem selectsSome_of_decodeWord {w : Word} {i : Instr} (hne : w ≠ haltWord) (h : decodeWord w = .ok i) :
    SelectsSome w opcodeRows := by
  obtain ⟨-, rfl⟩ := encode_of_decodeWord h
  exact encode_selectsSome fun hi => hne (hi ▸ rfl)

end Sys2Proof

namespace Sys2Proof.Proofs

open Sys2Proof.Machine

/-- Settles O3: a selected row names the operation; every instruction word selects a row, and no two rows share an operation. -/
theorem opcodeTableSelectsOperation : Obligations.OpcodeTableSelectsOperation := by
  refine ⟨fun w hne row hrow => ⟨decodeRecord_op_of_selects hne row hrow, fun hop => ?_⟩, fun w hne hnone => ?_⟩
  · cases h : decodeWord w with
    | ok i =>
      obtain ⟨row', hrow', hsel⟩ := selectsSome_of_decodeWord hne h
      have hop' := decodeRecord_op_of_selects hne row' hrow' hsel
      obtain rfl : row' = row := List.inj_on_of_nodup_map opcodeRows_op_nodup hrow' hrow (hop'.symm.trans hop)
      exact hsel
    | error r => exact absurd (hop.symm.trans (by rw [decodeRecord_of_error h]; rfl)) (row_op_ne_invalid row hrow)
  · cases h : decodeWord w with
    | ok i =>
      obtain ⟨row, hrow, hsel⟩ := selectsSome_of_decodeWord hne h
      exact absurd hsel (hnone row hrow)
    | error r => exact decodeRecord_of_error h

end Sys2Proof.Proofs
end

section
/-! PROOFS, `40_cycle_fetch.md`. The cycles in which no stage acts, the word that Fetch hands over, and the stall (R126 to R130, R140,
R143, R156). -/

namespace Sys2Proof.Machine

open Safety

/-! ### The cycles in which no stage acts (R126, R127) -/

theorem fetchActs_of_not_active {s : State} (ha : ¬ Active s) : fetchActs s = false :=
  Bool.eq_false_iff.2 fun hf => ha ((fetchActs_iff s).1 hf).1

/-- A step in which Fetch does not act is the cycle with nothing handed over. -/
theorem step_eq_cycle_none {s : State} (hf : fetchActs s = false) : step s = cycle s none := by simp [step, hf]

theorem cycle_of_terminal {s : State} (ht : terminal s = true) (h : Option IssuePlan) : cycle s h = .next s := if_pos ht

theorem cycle_of_flush {s : State} (hr : Running s) (hf : s.flush = true) (h : Option IssuePlan) :
    cycle s h = .next { s with flush := false } := by
  obtain ⟨hhalted, hfatal⟩ := hr
  simp [cycle, terminal, hhalted, hfatal, hf]

/-- While no stage acts, a step and every meaning are the one cycle that hands nothing over. -/
theorem moves_of_not_active {s : State} {o : Host.Outcome State Fault Refusal} (ha : ¬ Active s) (ho : ∀ h, cycle s h = o) :
    step s = o ∧ ∀ i : Instr, exec i s = o :=
  ⟨(step_eq_cycle_none (fetchActs_of_not_active ha)).trans (ho none), fun i => (exec_eq_cycle i s).trans (ho _)⟩

/-- While no stage acts, no memory port is driven. -/
theorem ports_of_not_active {s : State} (ha : ¬ Active s) :
    (ports s).fetchAddr = none ∧ (ports s).load = none ∧ (ports s).store = none := by
  have hidle : (terminal s || s.flush) = true := by simpa [active_iff, ← Bool.not_eq_false, not_and_or] using ha
  exact ⟨by simp [ports, fetchActs_of_not_active ha], if_pos hidle, if_pos hidle⟩

/-! ### The word that Fetch hands over (R129, R140, R156) -/

/-- Four bytes decode to `i`, with nothing left over, exactly when their word does (R90). -/
theorem decodeBytes_four_iff (b0 b1 b2 b3 : Byte) (i : Instr) :
    decodeBytes [b0, b1, b2, b3] = .ok (i, []) ↔ decodeWord (wordOfBytes b0 b1 b2 b3) = .ok i := by
  cases h : decodeWord (wordOfBytes b0 b1 b2 b3) <;> simp [decodeBytes, h]

/-- What Fetch reads is the word of the four bytes at the pc, in the order in which they lie in memory (R64, R129). -/
theorem fetchWord_of_inMemory {s : State} (h : inMemory s.params s.pc .word = true) :
    fetchWord s =
      .ok (wordOfBytes (memByte s.mem s.pc) (memByte s.mem (s.pc + 1)) (memByte s.mem (s.pc + 2)) (memByte s.mem (s.pc + 3))) :=
  readPort_of_inMemory h

theorem wordPlan_of_ok {s : State} {w : Word} {i : Instr} (h : decodeWord w = .ok i) : wordPlan s w = planOf i s := by
  simp [wordPlan, h]

/-- A word whose record is INVALID is handed over as INVALID (R156). -/
theorem wordPlan_of_invalid {s : State} {w : Word} (h : (decodeRecord w).op = .invalid) : wordPlan s w = invalidPlan s.pc := by
  cases hd : decodeWord w with
  | ok i => exact absurd (by simpa [decodeRecord, hd] using h) (recordOf_op_ne_invalid i)
  | error r => simp [wordPlan, hd]

theorem planOf_halt_iff_sentinel (i : Instr) (s : State) : (planOf i s).halt = true ↔ i = .halt := by
  rw [planOf_halt_iff, planOf_op]
  cases i <;> simp [recordOf]

/-- The mark is handed over for the sentinel's word and for no other (R99, R141). -/
theorem wordPlan_halt_iff_haltWord (s : State) (w : Word) : (wordPlan s w).halt = true ↔ w = haltWord := by
  have hword : decodeWord w = .ok .halt ↔ w = haltWord := Proofs.onlyOneWordIsSentinel.1 w
  rw [← hword]
  cases hd : decodeWord w with
  | ok i => rw [wordPlan_of_ok hd, planOf_halt_iff_sentinel, Except.ok.injEq]
  | error r => simp [wordPlan, hd, invalidPlan, plainPlan]

/-! ### The commit of the cycle, by what stands at the head (R290, R292) -/

theorem commit_of_not_headReady {s : State} (h : ¬ HeadReady s) : commit s = .ok .idle := by
  by_cases h0 : s.robSize = 0
  · exact commit_of_empty h0
  · exact commit_of_head_busy (Bool.not_eq_false _ ▸ fun hb => h ⟨h0, hb⟩)

/-- A ready head retires in its class, unless it is a mispredicted branch or an INVALID entry (R292, R302). -/
theorem commit_of_headReady {s : State} {cm : CommitResult} (hcm : commit s = .ok cm) (hmis : ∀ b, cm ≠ .mispredicted b)
    (hready : HeadReady s) (hop : (head s).halt = true ∨ (head s).op ≠ .invalid) : cm = .retired (head s).commitClass (head s) := by
  obtain ⟨hsize, hbusy⟩ := hready
  rcases commit_cases hcm with ⟨_, h0 | hb | hnever⟩ | ⟨_, _, ⟨rfl, _⟩ | ⟨_, rfl, rfl, _⟩⟩
  · exact absurd h0 hsize
  · exact absurd (hb.symm.trans hbusy) (by decide)
  · obtain ⟨hmark, hinvalid⟩ := (RobEntry.commitClass_eq_never_iff _).1 hnever
    exact absurd hop (by simp [head, hmark, hinvalid])
  · exact absurd rfl (hmis _)
  · rfl

theorem ne_mispredicted {s : State} {cm : CommitResult} (hcm : commit s = .ok cm) (hmis : ¬ Mispredicts s) (b : RobEntry) :
    cm ≠ .mispredicted b := by
  rintro rfl
  exact hmis ((commit_mispredicted_iff s).1 ⟨b, hcm⟩)

/-- Only the commit of a JALR redirects the pc (R293). -/
theorem committed_pc {s : State} {cm : CommitResult} (ex : ExecResult) (hcm : commit s = .ok cm) (hjalr : ¬ JumpRegisterRetires s) :
    (committed s ex cm).pc = s.pc := by
  rcases commit_cases hcm with ⟨rfl, _⟩ | ⟨hsize, hbusy, ⟨rfl, _⟩ | ⟨c, rfl, hclass, _⟩⟩
  · simp [applyCommit]
  · simp [applyCommit]
  · have hc : c ≠ .jumpRegister := by
      rintro rfl
      exact hjalr ⟨⟨hsize, hbusy⟩, (RobEntry.commitClass_eq_jumpRegister_iff _).1 hclass⟩
    simp [applyCommit, commitEffect_pc, hc]

/-! ### The stall (R130, R143) -/

/-- An instruction that stalls leaves the cycle in which nothing is handed over (R143). -/
theorem activeCycle_of_stalls {s : State} {p : IssuePlan} (h : stalls s p.op = true) :
    activeCycle s (some p) = activeCycle s none := by
  simp [activeCycle, issue, h]

/-- A cycle in which nothing is handed over, and in which Commit neither flushes nor redirects, holds the pc and draws no free value. -/
theorem activeCycle_none_holds_pc {s t : State} (e : activeCycle s none = .next t) (hmis : ¬ Mispredicts s)
    (hjalr : ¬ JumpRegisterRetires s) : t.pc = s.pc ∧ t.freeCount = s.freeCount := by
  obtain ⟨ex, cm, -, hcm, ⟨b, hb, -⟩ | ⟨-, rfl⟩⟩ := activeCycle_cases e
  · exact absurd hb (ne_mispredicted hcm hmis b)
  · exact ⟨committed_pc ex hcm hjalr, by simp [issue]⟩

/-- Issue stalls when the ROB is full or no slot of the target structure is free (R143). -/
theorem stalls_eq_true_iff (s : State) (op : Op) :
    stalls s op = true ↔ s.robSize = 32 ∨ ∀ k : Slot, (Bank.get (stationBank s (routeOf op)) k).busy = true := by
  rw [← Bool.not_eq_false, stalls_eq_false_iff]
  simp only [not_and_or, not_not, not_exists, Bool.not_eq_false]

end Sys2Proof.Machine

namespace Sys2Proof.Proofs

open Sys2Proof.Machine Sys2Proof.Safety

/-- Settles O7: the four bytes are the word that Fetch reads, and its plan is the one that the meaning hands to Issue. -/
theorem stepRunsDecodedInstruction : Obligations.StepRunsDecodedInstruction := by
  intro s i hf hin hbytes
  have hdecode := (decodeBytes_four_iff _ _ _ _ i).1 hbytes
  rw [step_of_fetchWord hf (fetchWord_of_inMemory hin), wordPlan_of_ok hdecode, exec_eq_cycle, cycle_of_fetchActs hf]

/-- Settles O8: the plan of an unrecognised word is that of INVALID, and a set `block` or `draining` stops Fetch. -/
theorem stepWithoutInstruction : Obligations.StepWithoutInstruction := by
  refine ⟨fun s w hf hw hinvalid => ?_, fun s ha hstop => step_of_not_fetchActs ha ?_⟩
  · rw [step_of_fetchWord hf hw, wordPlan_of_invalid hinvalid]
  · obtain hblock | hdrain := hstop
    · simp [fetchActs, hblock]
    · simp [fetchActs, hdrain]

/-- Settles O9: a terminal state is not active, and every cycle of it ends where it began. -/
theorem terminalStateIsFrozen : Obligations.TerminalStateIsFrozen := by
  intro s hend
  have ht : terminal s = true := by simpa [terminal] using hend
  have ha : ¬ Active s := fun ha => by simp [((active_iff s).1 ha).1] at ht
  obtain ⟨hstep, hexec⟩ := moves_of_not_active ha (cycle_of_terminal ht)
  exact ⟨hstep, hexec, ports_of_not_active ha⟩

/-- Settles O10: the flush cycle is not active and only clears the flag; R42 (e) says that nothing is in flight then. -/
theorem flushCycleOnlyClearsFlag : Obligations.FlushCycleOnlyClearsFlag := by
  intro s hrun hflush
  have ha : ¬ Active s := fun ha => by simp [ha.2] at hflush
  obtain ⟨hstep, hexec⟩ := moves_of_not_active ha (cycle_of_flush hrun hflush)
  obtain ⟨hfetch, hload, hstore⟩ := ports_of_not_active ha
  refine ⟨hstep, hexec, hfetch, hload, hstore, fun hc => ?_⟩
  obtain ⟨hsize, hblock, hdrain⟩ := hc.flush_empty hflush
  refine ⟨hsize, fun q => ?_, (fetchActs_iff _).2 ⟨⟨hrun, rfl⟩, hblock, hdrain⟩⟩
  rw [← Bool.not_eq_true]
  intro hq
  simpa [not_occupied_of_empty hsize] using (hc.entry_live q hq).1

/-- Settles O44: the plan of the instruction stalls, so the cycle is the one with nothing handed over, and that one holds the pc. -/
theorem fullStructureStallsIssue : Obligations.FullStructureStallsIssue := by
  intro s i hf hfull
  have hstall : stalls s (planOf i s).op = true := by rw [planOf_op]; exact (stalls_eq_true_iff s _).2 hfull
  have hexec : exec i s = activeCycle s none := by rw [exec_eq_cycle, cycle_of_fetchActs hf, activeCycle_of_stalls hstall]
  exact ⟨hexec, fun t ht => activeCycle_none_holds_pc (hexec ▸ ht)⟩

end Sys2Proof.Proofs
end

section
/-! PROOFS, `40_cycle_fetch.md`. How the writes of one cycle are merged (R124): `rob.size` counts the issue and the commit, a claim
overrides a clear, and `draining` has two writers (R144, R150, R155, R291, R300). -/

namespace Sys2Proof.Machine

open Safety

/-! ### The writes of Commit, on top of those of Execute (R291, R299, R300) -/

/-- An unmarked operation that writes a register retires as such, unless it is a JALR or a sentinel (R292). -/
theorem RobEntry.commitClass_eq_register {e : RobEntry} (hmark : e.halt = false) (hwrites : e.op.writesReg = true)
    (hjalr : e.op ≠ .jalr) (hhalt : e.op ≠ .halt) : e.commitClass = .register := by
  have hclass := (Op.writesReg_iff e.op).1 hwrites
  rw [Op.commitClass_eq_jumpRegister_iff, Op.commitClass_eq_halt_iff] at hclass
  simpa [RobEntry.commitClass, hmark, hjalr, hhalt] using hclass

/-- The retirement of a register-writing operation or a JALR writes its own register, and never register 0 (R293, R299). -/
theorem readReg_retired {s : State} (ex : ExecResult) {c : CommitClass} (e : RobEntry) (hc : c = .register ∨ c = .jumpRegister)
    (r : Reg) : readReg (committed s ex (.retired c e)) r = if r = e.rd ∧ r ≠ 0 then e.value else readReg s r := by
  have hregs : (committed s ex (.retired c e)).regs = if e.rd ≠ 0 then Bank.put s.regs e.rd e.value else s.regs := by
    simp [applyCommit, commitEffect_regs, hc]
  by_cases hr : r = 0
  · simp [readReg, hr]
  rw [readReg, readReg, hregs, if_neg hr, if_neg hr]
  by_cases hrd : r = e.rd
  · obtain rfl := hrd
    rw [if_pos hr, Bank.get_put_same, if_pos ⟨rfl, hr⟩]
  · have hkept : Bank.get (if e.rd ≠ 0 then Bank.put s.regs e.rd e.value else s.regs) r = Bank.get s.regs r := by
      split
      next => exact Bank.get_put_ne _ _ (Ne.symm hrd)
      next => rfl
    rw [hkept, if_neg (mt And.left hrd)]

theorem committed_robSize_of_not_headReady {s : State} {cm : CommitResult} (ex : ExecResult) (hcm : commit s = .ok cm)
    (h : ¬ HeadReady s) : (committed s ex cm).robSize = s.robSize := by
  cases (commit_of_not_headReady h).symm.trans hcm
  simp [applyCommit]

theorem committed_robSize_of_headReady {s : State} {cm : CommitResult} (ex : ExecResult) (hcm : commit s = .ok cm)
    (hmis : ∀ b, cm ≠ .mispredicted b) (hready : HeadReady s) (hop : (head s).halt = true ∨ (head s).op ≠ .invalid) :
    (committed s ex cm).robSize = s.robSize - 1 := by
  rw [commit_of_headReady hcm hmis hready hop]
  simp [applyCommit]

/-- Commit leaves an alias as it is, or clears the one that still names the retiring head (R300). -/
theorem committed_rat_cases {s : State} {cm : CommitResult} (ex : ExecResult) (hcm : commit s = .ok cm) (r : Reg) :
    Bank.get (committed s ex cm).rat r = Bank.get s.rat r ∨
      (HeadReady s ∧ r = (head s).rd ∧ r ≠ 0 ∧ (Bank.get s.rat r).id = s.robHead ∧
        Bank.get (committed s ex cm).rat r = { Bank.get s.rat r with busy := false }) := by
  rcases commit_cases hcm with ⟨rfl, _⟩ | ⟨hsize, hbusy, ⟨rfl, _⟩ | ⟨c, rfl, _⟩⟩
  · exact .inl (by simp [applyCommit])
  · exact .inl (by simp [applyCommit])
  · simp only [applyCommit, retireHead_rat, commitEffect_rat, applyExecute_rat]
    split
    next =>
      rw [get_clearClaim]
      split
      next hclears =>
        obtain ⟨hr, _, hid, rfl⟩ := hclears
        exact .inr ⟨⟨hsize, hbusy⟩, rfl, hr, hid, rfl⟩
      next => exact .inl rfl
    next => exact .inl rfl

/-! ### The step, with the issue on top of Commit's writes (R124) -/

/-- In a step without a flush the issue goes on top of the writes of Execute and Commit. -/
theorem step_issuedOver {s t : State} (ha : Active s) (h : step s = .next t) (hmis : ¬ Mispredicts s) :
    ∃ ex cm, commit s = .ok cm ∧ (∀ b, cm ≠ .mispredicted b) ∧ IssuedOver s (committed s ex cm) t := by
  rcases step_active ha h with ⟨hmis', _⟩ | ⟨ex, cm, _, hcm, hne, ⟨hnone, rfl⟩ | ⟨w, i, hi, _, rfl⟩⟩
  · exact absurd hmis' hmis
  · exact ⟨ex, cm, hcm, hne, issuedOver_refl _ hnone⟩
  · exact ⟨ex, cm, hcm, hne, issuedOver_applyIssue hi _ _ _ i⟩

theorem IssuedOver.readReg {s n t : State} (h : IssuedOver s n t) (r : Reg) : Machine.readReg t r = Machine.readReg n r := by
  simp [Machine.readReg, h.regs]

/-- `rob.size` after a step in which nothing retires (R124, R290). -/
theorem IssuedOver.sizeAfter_zero {s n t : State} (h : IssuedOver s n t) (hn : n.robSize = s.robSize) : SizeAfter s t 0 :=
  ⟨fun hi => by rw [h.size_issued hi, hn, sub_zero], fun hi => by rw [h.size_held hi, hn, sub_zero]⟩

/-- The aliases after a step whose commit clears that of `rd` (R124, R300). An alias that names the head and is already resolved is the
same with or without the clear. -/
theorem IssuedOver.aliasesAfterCommit {s n t : State} {rd : Reg} (h : IssuedOver s n t) (hn : n.rat = clearClaim s.rat rd s.robHead) :
    AliasesAfterCommit s t rd := by
  refine ⟨h.alias_claimed, ?_, ?_⟩
  · rintro r hr ⟨rfl, hne, hid⟩
    rw [h.alias_kept r hr, hn, get_clearClaim]
    cases hb : (Bank.get s.rat r).busy with
    | true => rw [if_pos ⟨hne, rfl, hid, rfl⟩]
    | false => rw [if_neg (by simp), ← hb]
  · intro r hr hkeep
    rw [h.alias_kept r hr, hn, get_clearClaim, if_neg]
    rintro ⟨hne, _, hid, rfl⟩
    exact hkeep ⟨rfl, hne, hid⟩

/-- A step issues at most one word, the fetched one (R129). -/
theorem issuesWord_unique {s : State} {v w : Word} (hv : IssuesWord s v) (hw : IssuesWord s w) : v = w := by
  obtain ⟨_, hfetch, _⟩ := hv
  obtain ⟨_, hfetch', _⟩ := hw
  exact Except.ok.inj (hfetch.symm.trans hfetch')

/-- The bit after a step without a flush: the issue of the sentinel is what sets it (R124, R155). -/
theorem step_drainBit {s t : State} (ha : Active s) (h : step s = .next t) (hmis : ¬ Mispredicts s) :
    t.drainBit = true ↔ s.drainBit = true ∨ IssuesWord s haltWord := by
  rcases step_active ha h with ⟨hmis', _⟩ | ⟨ex, cm, _, _, _, ⟨hnone, rfl⟩ | ⟨w, i, hi, _, rfl⟩⟩
  · exact absurd hmis' hmis
  · have hno : ¬ IssuesWord s haltWord := fun hw => hnone ⟨_, hw⟩
    simp [hno]
  · have hsentinel : (wordPlan s w).halt = true ↔ IssuesWord s haltWord := by
      rw [wordPlan_halt_iff_haltWord]
      exact ⟨fun hw => hw ▸ hi, issuesWord_unique hi⟩
    simp [hsentinel]

/-! ### The cycle of an instruction that issues (R144, R150, R159) -/

/-- A plan that can issue is issued, into a free slot and on top of the writes of Execute and Commit. -/
theorem activeCycle_of_canIssue {s : State} {p : IssuePlan} (hm : FullMemory s) (hcan : CanIssue s (routeOf p.op)) :
    ∃ ex cm i, execute s = .ok ex ∧ commit s = .ok cm ∧ (∀ b, cm ≠ .mispredicted b) ∧
      freeSlot (stationBank s (routeOf p.op)) = some i ∧
      activeCycle s (some p) = .next (applyIssue s (committed s ex cm) ex.cdb cm.redirects p i) := by
  obtain ⟨_, hsize, hfree, hmis⟩ := hcan
  have hstall : stalls s p.op = false := (stalls_eq_false_iff s _).2 ⟨hsize, hfree⟩
  obtain ⟨t, ht⟩ := activeCycle_full hm (some p)
  obtain ⟨ex, cm, hex, hcm, ⟨b, hb, -⟩ | ⟨hne, rfl⟩⟩ := activeCycle_cases ht
  · exact absurd hb (ne_mispredicted hcm hmis b)
  · rcases issue_cases s (committed s ex cm) ex.cdb cm.redirects (some p) with
      ⟨h, _⟩ | ⟨_, h, hs, _⟩ | ⟨_, i, h, _, _, hi, hissue⟩
    · cases h
    · cases h
      exact absurd (hstall.symm.trans hs) (by decide)
    · cases h
      exact ⟨ex, cm, i, hex, hcm, hne, hi, ht.trans (congrArg _ hissue)⟩

section
variable {s : State} {cm : CommitResult} (ex : ExecResult) (cdb : Option Cdb) (red : Bool) (p : IssuePlan) (i : Slot)

/-- `rob.size` after a cycle that issues (R124, R144, R291). -/
theorem sizeAfterIssue_applyIssue (hcm : commit s = .ok cm) (hmis : ∀ b, cm ≠ .mispredicted b) :
    SizeAfterIssue s (applyIssue s (committed s ex cm) cdb red p i) := by
  refine ⟨fun h => ?_, fun hready hop => ?_⟩
  · rw [applyIssue_robSize, committed_robSize_of_not_headReady ex hcm h]
  · rw [applyIssue_robSize, committed_robSize_of_headReady ex hcm hmis hready hop, BitVec.sub_add_cancel]

/-- An alias that the issue does not claim is as Commit leaves it (R150, R300). -/
theorem keptOrCleared_applyIssue (hcm : commit s = .ok cm) {r : Reg} (hr : ¬ (p.op.writesReg = true ∧ r = p.rd ∧ r ≠ 0)) :
    KeptOrCleared s (applyIssue s (committed s ex cm) cdb red p i) r := by
  have hkept : Bank.get (applyIssue s (committed s ex cm) cdb red p i).rat r = Bank.get (committed s ex cm).rat r := by
    rw [applyIssue_rat, get_claim, if_neg]
    rintro ⟨hwrites, hne, rfl⟩
    exact hr ⟨hwrites, rfl, hne⟩
  rw [KeptOrCleared, hkept]
  exact committed_rat_cases ex hcm r

end

end Sys2Proof.Machine

namespace Sys2Proof.Proofs

open Sys2Proof.Machine Sys2Proof.Safety

/-- Settles O24: the head retires in the class of register-writing operations; the issue on top of it adds its claim. -/
theorem registerCommit : Obligations.RegisterCommit := by
  intro s hm ha hready hmark hwrites hjalr hhalt
  have hclass := RobEntry.commitClass_eq_register hmark hwrites hjalr hhalt
  obtain ⟨t, hstep⟩ := step_full hm ha
  obtain ⟨ex, ht⟩ : ∃ ex, IssuedOver s (committed s ex (.retired .register (head s))) t := by
    obtain ⟨cm, hcm⟩ := commit_full hm
    have hmis : ¬ Mispredicts s := fun ⟨_, hbranch, _⟩ => by
      simp [(RobEntry.commitClass_eq_branch_iff _).2 hbranch] at hclass
    have hop : (head s).op ≠ .invalid := fun hop => by simp [hop, Op.writesReg] at hwrites
    obtain rfl := hclass ▸ commit_of_headReady hcm (ne_mispredicted hcm hmis) hready (.inr hop)
    exact step_of_retired ha hstep hcm
  refine ⟨t, hstep, fun r => ?_, fun a => ?_, ?_, ?_, ?_, ht.aliasesAfterCommit ?_, ht.sizeAfter ?_⟩
  · rw [ht.readReg, readReg_retired ex _ (.inl rfl)]
  · simp [ht.mem, applyCommit, commitEffect_mem]
  · simp [ht.robHead, applyCommit]
  · simp [ht.predCtr, applyCommit, commitEffect_predCtr]
  · have hno : ¬ (HeadReady s ∧ ((head s).halt = true ∨ (head s).op = .halt)) := by simp [hmark, hhalt]
    exact Bool.eq_false_iff.2 (mt (onlyTwoEventsEndRun s t ha hstep).1.1 hno)
  · simp [applyCommit, commitEffect_rat]
  · simp [applyCommit]

/-- Settles O59: Commit takes one from the size when the head retires and nothing otherwise; the issue adds one. -/
theorem robSizeCountsIssuesAndCommits : Obligations.RobSizeCountsIssuesAndCommits := by
  intro s t ha hmis h
  obtain ⟨ex, cm, hcm, hne, ht⟩ := step_issuedOver ha h hmis
  exact ⟨fun hready hop => ht.sizeAfter (committed_robSize_of_headReady ex hcm hne hready hop),
    fun hready => ht.sizeAfter_zero (committed_robSize_of_not_headReady ex hcm hready)⟩

/-- Settles O60: the flush clears the bit, the issue of the sentinel sets it, and Execute and Commit do not write it. -/
theorem drainBitHasTwoWriters : Obligations.DrainBitHasTwoWriters := by
  intro s t h
  refine ⟨fun ha hmis => ?_, fun ha hmis => step_drainBit ha h hmis, fun ha => ?_⟩
  · rcases step_active ha h with ⟨_, rfl⟩ | ⟨_, cm, _, hcm, hne, _⟩
    · rfl
    · obtain ⟨b, hb⟩ := (commit_mispredicted_iff s).2 hmis
      exact absurd (Except.ok.inj (hcm.symm.trans hb)) (hne b)
  · obtain rfl | rfl := step_of_not_active ha h <;> rfl

/-- Settles O40: the plan of the instruction is issued on top of the writes of Execute and Commit. -/
theorem issueFillsRobAndClaims : Obligations.IssueFillsRobAndClaims := by
  intro s i hm hcan
  have hop := planOf_op i s
  have hrd := planOf_rd i s
  obtain ⟨ex, cm, k, -, hcm, hmis, -, hcycle⟩ := activeCycle_of_canIssue (p := planOf i s) hm (hop ▸ hcan)
  have hmark := planOf_halt_iff_sentinel i s
  refine ⟨_, (exec_eq_cycle i s).trans ((cycle_of_fetchActs hcan.1 _).trans hcycle), ?_, ?_, ?_, ?_, fun hwrites hne => ?_,
    fun r hr => keptOrCleared_applyIssue ex _ _ _ k hcm (hop ▸ hrd ▸ hr), sizeAfterIssue_applyIssue ex _ _ _ k hcm hmis, fun hi => ?_,
    fun hjalr => ?_⟩
  · rw [robAt_applyIssue_tail]; rfl
  · rw [robAt_applyIssue_tail]; exact hop
  · rw [robAt_applyIssue_tail]; exact hrd
  · rw [robAt_applyIssue_tail]; exact hmark
  · rw [applyIssue_rat, get_claim, hop, hrd, if_pos ⟨hwrites, hne, rfl⟩]
  · have hbit : (applyIssue s (committed s ex cm) ex.cdb cm.redirects (planOf i s) k).drainBit = true := by simp [hmark.2 hi]
    exact ⟨hbit, fun hrunning => (State.draining_eq_true_iff _).2 ⟨hbit, hrunning⟩⟩
  · simp [hop, hjalr]

end Sys2Proof.Proofs
end

section
/-! PROOFS, `41_decode_issue.md`. What an issue puts into its slot, its ROB entry and the pc: the free slot of the lowest index, the
operands of the table of R149, the predicted path and the link value; and what an issue leaves alone (R144 to R159). -/

namespace Sys2Proof.Machine

open Safety

/-! ### The slot that Issue takes (R145) -/

/-- The search for a free slot runs by rising index, so what it finds is the lowest. -/
theorem freeSlot_firstFree {v : Bank StationEntry} {i : Slot} (h : freeSlot v = some i) : FirstFree v i := by
  refine ⟨freeSlot_free h, fun j hj => ?_⟩
  obtain ⟨k, hfound, hk⟩ : ∃ k, (List.range 32).find? (fun k => !(Bank.get v (BitVec.ofNat 5 k)).busy) = some k ∧
      BitVec.ofNat 5 k = i := by
    simpa [freeSlot, indices, List.find?_map, Function.comp_def] using h
  obtain ⟨-, hrange, hlower⟩ := List.find?_range_eq_some.1 hfound
  have hlt : j.toNat < k := by
    rw [← hk, BitVec.toNat_ofNat] at hj
    exact hj.trans_le (Nat.mod_le k _)
  simpa using hlower j.toNat hlt

/-- With every slot free the lowest free one is slot 0. -/
theorem firstFree_eq_zero {v : Bank StationEntry} {i : Slot} (h : FirstFree v i) (hfree : ∀ j : Slot, (Bank.get v j).busy = false) :
    i = 0 := by
  obtain ⟨-, hlower⟩ := h
  by_contra hne
  have hpos : (0 : Slot).toNat < i.toNat := Nat.pos_of_ne_zero fun h0 => hne (BitVec.eq_of_toNat_eq h0)
  simpa [hfree] using hlower 0 hpos

/-! ### The operands (R146 to R149) -/

theorem cdbOf_of_execute {s : State} {ex : ExecResult} (h : execute s = .ok ex) : cdbOf s = ex.cdb := by simp [cdbOf, h]

/-- The function `resolve` meets the relation of R146 to R148, whatever the free value of a pending operand is. -/
theorem resolve_resolves (s : State) (cdb : Option Cdb) (free : Word) (r : Reg) :
    Resolves s cdb r (resolve s cdb free r).value (resolve s cdb free r).tag := by
  unfold Resolves resolve
  split_ifs with hzero halias hready
  · exact ⟨rfl, rfl⟩
  · exact ⟨if_neg hzero, rfl⟩
  · exact ⟨rfl, rfl⟩
  · cases cdb with
    | none => simp
    | some c =>
      by_cases hid : c.id = (Bank.get s.rat r).id
      · simp [← hid]
      · simp [hid]

/-- A captured operand holds what its column asks for (R149). -/
theorem capture_holds (s : State) (cdb : Option Cdb) (free : Word) (src : Source) :
    Holds s cdb src (capture s cdb free src).value (capture s cdb free src).tag := by
  cases src with
  | known v => exact ⟨rfl, rfl⟩
  | reg r => exact resolve_resolves s cdb free r

theorem capture_reg_zero (s : State) (cdb : Option Cdb) (free : Word) :
    capture s cdb free (.reg 0) = capture s cdb free (.known 0) := rfl

/-- The plan of every instruction captures the columns of the table of R149. The sentinel's asks for register 0 where the table has the
literal 0 (R147). -/
theorem capture_planOf (i : Instr) (s : State) (cdb : Option Cdb) :
    (∀ free, capture s cdb free (planOf i s).j = capture s cdb free (operandColumns (recordOf i) s.pc).1) ∧
      ∀ free, capture s cdb free (planOf i s).k = capture s cdb free (operandColumns (recordOf i) s.pc).2 := by
  cases i
  case halt => exact ⟨capture_reg_zero s cdb, fun _ => rfl⟩
  all_goals exact ⟨fun _ => rfl, fun _ => rfl⟩

/-- The operand slots of an issued instruction hold what its columns ask for (R149). -/
theorem issuedEntry_holds (i : Instr) (s : State) (cdb : Option Cdb) :
    Holds s cdb (operandColumns (recordOf i) s.pc).1 (issuedEntry s cdb (planOf i s)).vj (issuedEntry s cdb (planOf i s)).qj ∧
      Holds s cdb (operandColumns (recordOf i) s.pc).2 (issuedEntry s cdb (planOf i s)).vk (issuedEntry s cdb (planOf i s)).qk := by
  obtain ⟨hj, hk⟩ := capture_planOf i s cdb
  simp only [issuedEntry, hj, hk]
  exact ⟨capture_holds .., capture_holds ..⟩

theorem planOf_imm (i : Instr) (s : State) : (planOf i s).imm = (recordOf i).imm := by
  cases i <;> rfl

/-! ### The next pc, the prediction and the link (R152 to R154, R157) -/

/-- `Predict(c) = c[1]` is 1 in the two upper values of the counter (R311). -/
theorem predict_eq_decide (c : BitVec 2) : predict c = decide (2 ≤ c.toNat) := by
  revert c; decide

theorem planOf_branch {i : Instr} (s : State) (h : (recordOf i).op.isBranch = true) :
    planOf i s = branchPlan (recordOf i) s.pc (predict s.predCtr) := by
  cases i
  case beq | bne | blt | bge | bltu | bgeu => rfl
  all_goals exact Bool.noConfusion h

/-- The next pc of an instruction that is no branch (R157). -/
theorem planOf_nextPc {i : Instr} (s : State) (h : (recordOf i).op.isBranch = false) :
    (planOf i s).nextPc = if (recordOf i).op = .jal then s.pc + (recordOf i).imm else s.pc + 4 := by
  cases i
  case beq | bne | blt | bge | bltu | bgeu => exact Bool.noConfusion h
  all_goals rfl

/-- The two jumps record their link value at issue (R152, R153). -/
theorem planOf_link {i : Instr} (s : State) (h : (recordOf i).op = .jal ∨ (recordOf i).op = .jalr) :
    (planOf i s).value = some (s.pc + 4) := by
  cases i
  case jal | jalr => rfl
  all_goals simp [recordOf] at h

/-- Commit redirects the pc only when a JALR retires (R293). -/
theorem not_redirects {s : State} {cm : CommitResult} (hcm : commit s = .ok cm) (hjalr : ¬ JumpRegisterRetires s) :
    cm.redirects = false := by
  rcases commit_cases hcm with ⟨rfl, -⟩ | ⟨hsize, hbusy, ⟨rfl, -⟩ | ⟨c, rfl, hclass, -⟩⟩
  · rfl
  · rfl
  · refine beq_eq_false_iff_ne.2 ?_
    rintro rfl
    exact hjalr ⟨⟨hsize, hbusy⟩, (RobEntry.commitClass_eq_jumpRegister_iff _).1 hclass⟩

/-! ### The cycle of an instruction that issues (R144, R145, R159) -/

/-- The meaning of an instruction that can issue: the writes of Execute and Commit, and the issue of its plan on top of them. -/
theorem exec_of_canIssue {s : State} (i : Instr) (hm : FullMemory s) (hcan : CanIssue s (routeOf (recordOf i).op)) :
    ∃ ex cm k, execute s = .ok ex ∧ commit s = .ok cm ∧ FirstFree (stationBank s (routeOf (recordOf i).op)) k ∧
      exec i s = .next (applyIssue s (committed s ex cm) ex.cdb cm.redirects (planOf i s) k) := by
  rw [← planOf_op i s] at hcan ⊢
  obtain ⟨ex, cm, k, hex, hcm, -, hk, hcycle⟩ := activeCycle_of_canIssue hm hcan
  exact ⟨ex, cm, k, hex, hcm, freeSlot_firstFree hk, by rw [exec_eq_cycle, cycle_of_fetchActs hcan.1, hcycle]⟩

/-- When no JALR retires in the cycle nothing but the issue writes the pc, and the tail of the ROB holds the entry of the plan. -/
theorem exec_pc_of_canIssue {s : State} (i : Instr) (hm : FullMemory s) (hcan : CanIssue s (routeOf (recordOf i).op))
    (hjalr : ¬ JumpRegisterRetires s) :
    ∃ t, exec i s = .next t ∧ t.pc = (planOf i s).nextPc ∧ robAt t (tail s) = issuedRob s (planOf i s) := by
  obtain ⟨ex, cm, k, -, hcm, -, hexec⟩ := exec_of_canIssue i hm hcan
  exact ⟨_, hexec, by simp [not_redirects hcm hjalr], robAt_applyIssue_tail ..⟩

theorem routeOf_branch {op : Op} (h : op.isBranch = true) : routeOf op = .rs := by
  cases op
  case beq | bne | blt | bge | bltu | bgeu => rfl
  all_goals exact Bool.noConfusion h

/-- While Fetch acts the stored bit of `draining` is clear (R35, R128). -/
theorem drainBit_of_fetchActs {s : State} (hf : fetchActs s = true) : s.drainBit = false := by
  obtain ⟨⟨⟨hhalted, -⟩, -⟩, -, hdrain⟩ := (fetchActs_iff s).1 hf
  exact (State.draining_of_not_halted hhalted).symm.trans hdrain

theorem fetchActs_of_drained {s : State} (hd : Drained s) : fetchActs s = true :=
  (fetchActs_iff s).2 ⟨hd.active, hd.block, hd.draining⟩

/-- From a drained state the issue goes into slot 0 and nothing else happens in the cycle. -/
theorem exec_of_drained {s : State} (i : Instr) (hd : Drained s) (hm : FullMemory s) :
    exec i s = .next (applyIssue s s none false (planOf i s) 0) := by
  have hfree : ∀ st (j : Slot), (Bank.get (stationBank s st) j).busy = false := fun st j => hd.stations ⟨st, j⟩
  have hcan : CanIssue s (routeOf (recordOf i).op) :=
    ⟨fetchActs_of_drained hd, by simp [hd.size], ⟨0, hfree _ 0⟩, fun ⟨⟨hsize, _⟩, _⟩ => hsize hd.size⟩
  obtain ⟨ex, cm, k, hex, hcm, hk, hexec⟩ := exec_of_canIssue i hm hcan
  cases hex.symm.trans (execute_of_no_busy hd.stations)
  cases hcm.symm.trans (commit_of_empty hd.size)
  obtain rfl := firstFree_eq_zero hk (hfree _)
  exact hexec

end Sys2Proof.Machine

namespace Sys2Proof.Proofs

open Sys2Proof.Machine Sys2Proof.Safety

/-- Settles O39: the plan captures the columns of the table, and the search for a slot finds the lowest free one. -/
theorem issueFillsStationEntry : Obligations.IssueFillsStationEntry := by
  intro s i hm hcan
  obtain ⟨ex, cm, k, hex, -, hk, hexec⟩ := exec_of_canIssue i hm hcan
  have hentry : entryAt (applyIssue s (committed s ex cm) ex.cdb cm.redirects (planOf i s) k) ⟨routeOf (recordOf i).op, k⟩ =
      issuedEntry s ex.cdb (planOf i s) := planOf_op i s ▸ entryAt_applyIssue_new _
  refine ⟨_, k, hexec, hk, ?_⟩
  rw [hentry, cdbOf_of_execute hex]
  exact ⟨rfl, planOf_op i s, planOf_imm i s, rfl, issuedEntry_holds i s ex.cdb⟩

/-- Settles O42: the plan of a branch takes the predicted path and records the other one. -/
theorem branchIssueRecordsPrediction : Obligations.BranchIssueRecordsPrediction := by
  intro s i hm hcan hbranch hjalr
  obtain ⟨t, hexec, hpc, hrob⟩ := exec_pc_of_canIssue i hm (routeOf_branch hbranch ▸ hcan) hjalr
  rw [planOf_branch s hbranch, predict_eq_decide] at hpc hrob
  refine ⟨t, hexec, fun htaken => ?_, fun hnot => ?_⟩
  · simp [hpc, hrob, branchPlan, issuedRob, htaken]
  · simp [hpc, hrob, branchPlan, issuedRob, Nat.not_le.2 hnot]

/-- Settles O43: Commit leaves the pc to the plan of the instruction, which also holds the link value of the jumps. -/
theorem issueSetsNextPc : Obligations.IssueSetsNextPc := by
  intro s i hm hcan hbranch hjalr
  obtain ⟨t, hexec, hpc, hrob⟩ := exec_pc_of_canIssue i hm hcan hjalr
  refine ⟨t, hexec, hpc.trans (planOf_nextPc s hbranch), fun hjump => ?_⟩
  simp [hrob, issuedRob, planOf_link s hjump]

/-- Settles O41: in the empty pipeline nothing fires and nothing retires, so the cycle is the issue alone, into slot 0. -/
theorem issueTouchesOnlyItsEntries : Obligations.IssueTouchesOnlyItsEntries := by
  intro s i hd hm
  have hop := planOf_op i s
  have hmark := planOf_halt_iff_sentinel i s
  obtain ⟨⟨hhalted, hfatal⟩, hflush⟩ := hd.active
  have hbit := drainBit_of_fetchActs (fetchActs_of_drained hd)
  refine ⟨_, exec_of_drained i hd hm, rfl, rfl, rfl, rfl, by simp [hd.size], hflush, hhalted, hfatal, rfl, rfl, ?_, ?_, ?_,
    fun k hk => ?_, fun q hq => ?_, fun r hr => ?_⟩
  · simp [hd.block, hop]
  · simp [hbit, hmark]
  · simp [State.draining_eq_true_iff, hbit, hmark, hhalted]
  · rw [robAt_applyIssue, if_neg hk]
  · exact entryAt_applyIssue_old _ (hop.symm ▸ hq)
  · rw [applyIssue_rat, get_claim, hop, planOf_rd, if_neg]
    rintro ⟨hwrites, hne, rfl⟩
    exact hr ⟨hwrites, rfl, hne⟩

/-- Settles O58: an unrecognised word is handed over as INVALID, whose plan has no source and no destination; it issues on top of the
writes of Execute and Commit, or stalls. -/
theorem unrecognisedWordIssue : Obligations.UnrecognisedWordIssue := by
  intro s w hm hw hinvalid
  have hstep : fetchActs s = true → step s = activeCycle s (some (invalidPlan s.pc)) := fun hf => by
    rw [step_of_fetchWord hf hw, wordPlan_of_invalid hinvalid]
  refine ⟨fun hcan => ?_, fun hf hfull => ?_⟩
  · obtain ⟨ex, cm, k, hex, hcm, hmis, hk, hcycle⟩ := activeCycle_of_canIssue (p := invalidPlan s.pc) hm hcan
    obtain ⟨⟨⟨-, hfatal⟩, -⟩, hblock, -⟩ := (fetchActs_iff s).1 hcan.1
    have hrob := robAt_applyIssue_tail s (committed s ex cm) ex.cdb cm.redirects (invalidPlan s.pc) k
    refine ⟨_, k, (hstep hcan.1).trans hcycle, freeSlot_firstFree hk, entryAt_applyIssue_new _, congrArg RobEntry.busy hrob,
      congrArg RobEntry.op hrob, congrArg RobEntry.rd hrob, congrArg RobEntry.pred hrob, congrArg RobEntry.halt hrob,
      fun r => keptOrCleared_applyIssue ex _ _ _ k hcm ?_, sizeAfterIssue_applyIssue ex _ _ _ k hcm hmis, ?_, ?_, fun hjalr => ?_, ?_⟩
    · exact fun ⟨hwrites, _⟩ => Bool.noConfusion hwrites
    · rw [applyIssue_block, applyCommit_block_of_false _ _ (by simpa using hblock)]; rfl
    · simp [drainBit_of_fetchActs hcan.1, invalidPlan, plainPlan]
    · simp [not_redirects hcm hjalr, invalidPlan, plainPlan]
    · rw [← execute_fatal_iff, hex]
      simp [hfatal]
  · have hstall : stalls s (invalidPlan s.pc).op = true := (stalls_eq_true_iff s _).2 hfull
    have hnone : step s = activeCycle s none := (hstep hf).trans (activeCycle_of_stalls hstall)
    refine ⟨hnone, fun t ht hmis hjalr => ?_⟩
    obtain ⟨hpc, -⟩ := activeCycle_none_holds_pc (hnone ▸ ht) hmis hjalr
    exact hpc

end Sys2Proof.Proofs
end

section
/-! PROOFS, `42_execute_cdb.md`. The eligible set and the selection as conditions on the current copy, the broadcast as each operand
sees it, what a cycle leaves of the entries in flight, and the unrecognised word from its fetch to `fatal` (R170 to R186, R279). -/

namespace Sys2Proof.Machine

open Safety

/-! ### Eligibility (R170 to R174) -/

theorem ready_iff (e : StationEntry) : ready e = true ↔ e.busy = true ∧ e.qj = none ∧ e.qk = none := by
  simp [ready, and_assoc]

/-- Two accesses overlap exactly when some byte belongs to both (R173). -/
theorem overlap_iff (a1 : Word) (n1 : Width) (a2 : Word) (n2 : Width) :
    overlap a1 n1 a2 n2 = true ↔ ∃ a, inAccess a1 n1 a = true ∧ inAccess a2 n2 a = true := by
  constructor
  · intro h
    obtain ⟨i, hi, hin⟩ := List.any_eq_true.1 h
    exact ⟨_, (inAccess_iff _ _ _).2 ⟨i, List.mem_range.1 hi, rfl⟩, hin⟩
  · rintro ⟨a, hin1, hin2⟩
    obtain ⟨i, hi, rfl⟩ := (inAccess_iff _ _ _).1 hin1
    exact List.any_eq_true.2 ⟨i, List.mem_range.2 hi, hin2⟩

theorem loadPasses_iff (s : State) (e : StationEntry) :
    loadPasses s e = true ↔ ∀ k : RobId, older s k e.dest = true → (robAt s k).op.isStore = true →
      (robAt s k).busy = false ∧ overlap (robAt s k).addr (robAt s k).op.width (effectiveAddress e) e.op.width = false := by
  simp [loadPasses, or_iff_not_imp_left]

theorem storePasses_iff (s : State) (e : StationEntry) :
    storePasses s e = true ↔ ∀ k : RobId, older s k e.dest = true → (robAt s k).op.isMem = true → (robAt s k).busy = false := by
  simp [storePasses, or_iff_not_imp_left]

theorem Op.isStore_of_isLoad {op : Op} (h : op.isLoad = true) : op.isStore = false := by
  cases op
  case lb | lh | lw | lbu | lhu => rfl
  all_goals exact Bool.noConfusion h

theorem Op.isLoad_of_isStore {op : Op} (h : op.isStore = true) : op.isLoad = false :=
  Bool.eq_false_iff.2 fun hload => by simp [Op.isStore_of_isLoad hload] at h

/-- A load in the LSB is held back by its tags and by the check of R171, and by nothing else. -/
theorem eligible_load_iff (s : State) {e : StationEntry} (h : e.op.isLoad = true) :
    eligible s .lsb e = true ↔ ready e = true ∧ loadPasses s e = true := by
  simp [eligible, h, Op.isStore_of_isLoad h]

/-- A store in the LSB is held back by its tags and by the check of R172, and by nothing else. -/
theorem eligible_store_iff (s : State) {e : StationEntry} (h : e.op.isStore = true) :
    eligible s .lsb e = true ↔ ready e = true ∧ storePasses s e = true := by
  simp [eligible, h, Op.isLoad_of_isStore h]

/-! ### The selection (R175) -/

/-- The eligible set does not depend on the stream of choices. -/
theorem eligiblePicks_withChoices (s : State) (l : List Nat) : eligiblePicks { s with choices := l } = eligiblePicks s := rfl

/-- A choice below the number of eligible entries is the index of the entry that fires (log entry 2). -/
theorem select_withChoice {s : State} {c : Nat} (hc : c < (eligiblePicks s).length) :
    select { s with choices := [c] } = some (eligiblePicks s)[c] := by
  simp only [select, eligiblePicks_withChoices, Nat.mod_eq_of_lt hc, List.getElem?_eq_getElem hc]

/-! ### The broadcast, operand by operand (R180) -/

section
variable {d : RobId} {v : Word} {e : StationEntry}

theorem wakeEntry_first_waiting (he : e.busy = true) (hq : e.qj = some d) :
    (wakeEntry d v e).qj = none ∧ (wakeEntry d v e).vj = v := by simp [wakeEntry, he, hq]

theorem wakeEntry_first_other (hq : e.qj ≠ some d) : (wakeEntry d v e).qj = e.qj ∧ (wakeEntry d v e).vj = e.vj := by
  cases he : e.busy <;> simp [wakeEntry, he, hq]

theorem wakeEntry_second_waiting (he : e.busy = true) (hq : e.qk = some d) :
    (wakeEntry d v e).qk = none ∧ (wakeEntry d v e).vk = v := by simp [wakeEntry, he, hq]

theorem wakeEntry_second_other (hq : e.qk ≠ some d) : (wakeEntry d v e).qk = e.qk ∧ (wakeEntry d v e).vk = e.vk := by
  cases he : e.busy <;> simp [wakeEntry, he, hq]

end

/-! ### What Execute leaves of the entries in flight stays (R124, R144, R145) -/

/-- Without a flush, a step leaves every entry in flight as Execute leaves it: Commit writes none, and the issue takes a free slot and the
tail of the ROB. -/
theorem step_in_flight {s t : State} (hsize : s.robSize.toNat ≤ 32) (ha : Active s) (hmis : ¬ Mispredicts s) (h : step s = .next t)
    {ex : ExecResult} (hex : execute s = .ok ex) :
    (∀ q : Pick, (entryAt s q).busy = true → entryAt t q = entryAt (applyExecute s ex) q) ∧
      ∀ k : RobId, occupied s k = true → robAt t k = robAt (applyExecute s ex) k := by
  rcases step_active ha h with ⟨hmis', _⟩ | ⟨ex', cm, hex', _, _, hcase⟩
  · exact absurd hmis' hmis
  cases hex.symm.trans hex'
  rcases hcase with ⟨_, rfl⟩ | ⟨w, i, ⟨_, _, hroom, _⟩, hi, rfl⟩
  · exact ⟨fun q _ => entryAt_applyCommit .., fun k _ => robAt_applyCommit ..⟩
  · constructor
    · intro q hq
      have hne : q ≠ ⟨routeOf (wordPlan s w).op, i⟩ := by
        rintro rfl
        exact absurd ((freeSlot_free hi).symm.trans hq) (by decide)
      rw [entryAt_applyIssue_old _ hne, entryAt_applyCommit]
    · intro k hk
      rw [robAt_applyIssue_of_occupied (robSize_lt_of_not_full hsize (by simpa [robFull] using hroom)) hk, robAt_applyCommit]

/-- What fires is the selected entry, under its own ROB id (R176). -/
theorem fired_selected {s : State} {f : Fire} (h : execute s = .ok (.fired f)) :
    select s = some f.pick ∧ f.dest = (entryAt s f.pick).dest := by
  rcases execute_cases h with ⟨hex, _⟩ | ⟨hex, _⟩ | ⟨p, v, t, hsel, _, hex⟩
  · cases hex
  · cases hex
  · cases hex
    exact ⟨hsel, rfl⟩

/-- While no head is ready, a step writes neither a register nor memory (R290, R303). -/
theorem step_frame_of_not_headReady {s t : State} (ha : Active s) (hready : ¬ HeadReady s) (h : step s = .next t) :
    t.regs = s.regs ∧ t.mem = s.mem := by
  obtain ⟨ex, cm, hcm, _, ht⟩ := step_issuedOver ha h fun hmis => hready hmis.1
  cases (commit_of_not_headReady hready).symm.trans hcm
  exact ⟨by simp [ht.regs, applyCommit], by simp [ht.mem, applyCommit]⟩

/-! ### The unrecognised word, alone in the pipeline (R156, R279) -/

/-- From a drained state a handed plan goes into a free slot and nothing else happens in the cycle. -/
theorem activeCycle_of_drained {s : State} (hd : Drained s) (hm : FullMemory s) (p : IssuePlan) :
    ∃ i, activeCycle s (some p) = .next (applyIssue s s none false p i) := by
  have hcan : CanIssue s (routeOf p.op) :=
    ⟨fetchActs_of_drained hd, by simp [hd.size], ⟨0, hd.stations ⟨_, 0⟩⟩, fun ⟨⟨hsize, _⟩, _⟩ => hsize hd.size⟩
  obtain ⟨ex, cm, i, hex, hcm, -, -, hcycle⟩ := activeCycle_of_canIssue hm hcan
  cases hex.symm.trans (execute_of_no_busy hd.stations)
  cases hcm.symm.trans (commit_of_empty hd.size)
  exact ⟨i, hcycle⟩

/-- INVALID claims no register (R150, R156). -/
theorem claim_invalidPlan (rat : Bank RatEntry) (pc : Word) (b : RobId) : claim rat (invalidPlan pc) b = rat := rfl

/-- After the issue of a plan into the empty ROB its entry is the head, alone in flight. -/
theorem head_applyIssue_of_empty {s : State} (h : s.robSize = 0) (cdb : Option Cdb) (red : Bool) (p : IssuePlan) (i : Slot) :
    head (applyIssue s s cdb red p i) = issuedRob s p := by
  rw [head, applyIssue_robHead, ← tail_of_empty h, robAt_applyIssue_tail]

end Sys2Proof.Machine

namespace Sys2Proof.Proofs

open Sys2Proof.Machine Sys2Proof.Safety

/-- Settles O33: the check of R171 goes through all older stores, and two accesses overlap when they share a byte. -/
theorem loadEligibleIffOlderStoresPass : Obligations.LoadEligibleIffOlderStoresPass := by
  intro s e hload
  simp only [eligible_load_iff s hload, ready_iff, loadPasses_iff, ← Bool.not_eq_true (overlap ..), overlap_iff, effectiveAddress,
    not_exists]

/-- Settles O34: the check of R172 goes through all older loads and stores. -/
theorem storeEligibleIffOlderMemoryOpsResolved : Obligations.StoreEligibleIffOlderMemoryOpsResolved := by
  intro s e hstore
  simp only [eligible_store_iff s hstore, ready_iff, storePasses_iff, Op.isMem_iff]

/-- Settles O35: the choice is made in the list of all eligible entries, and every one of them has an index there. -/
theorem selectsOldestEligible : Obligations.SelectsOldestEligible := by
  intro s
  refine ⟨?_, fun p hsel => ⟨select_eligible hsel, fun hchoices => select_oldest hchoices hsel⟩, fun q hq => ?_⟩
  · rw [select_none_iff, List.eq_nil_iff_forall_not_mem]
    simp only [mem_eligiblePicks, Bool.not_eq_true]
  · obtain ⟨c, hc, rfl⟩ := List.mem_iff_getElem.1 ((mem_eligiblePicks s q).2 hq)
    exact ⟨c, select_withChoice hc⟩

/-- Settles O36: the ROB entry and the slots are as the fire leaves them, and every other slot has seen the broadcast. -/
theorem fireReachesEveryWaiter : Obligations.FireReachesEveryWaiter := by
  intro s t f hc ha hmis hex h
  obtain ⟨hsel, hdest⟩ := fired_selected hex
  have hbusy := (eligible_ready (select_eligible hsel)).1
  obtain ⟨hentry, hrob⟩ := step_in_flight hc.size_le ha hmis h hex
  have hdone : robAt t f.dest = completeRob f (robAt s f.dest) := by
    rw [hrob _ (hdest ▸ (hc.entry_live _ hbusy).1), applyExecute, robAt_applyFire, if_pos rfl]
  refine ⟨by rw [hdone]; rfl, by rw [hdone]; rfl, fun a hta => by simp [hdone, completeRob, hta], ?_, fun q hq hqb => ?_⟩
  · rw [hentry _ hbusy, applyExecute, entryAt_applyFire, if_pos rfl]
  · rw [hentry _ hqb, applyExecute, entryAt_applyFire_ne s hq, wakeEntry_busy, wakeEntry_dest]
    exact ⟨hqb, rfl, wakeEntry_first_waiting hqb, wakeEntry_first_other, wakeEntry_second_waiting hqb, wakeEntry_second_other⟩

/-- Settles O37: Execute answers `fatal`, which writes the flag alone. -/
theorem invalidFireIsFatal : Obligations.InvalidFireIsFatal := by
  intro s p hm hc ha hmis hsel hop
  have hex : execute s = .ok .fatal := (execute_fatal_iff s).2 ⟨p, hsel, hop⟩
  obtain ⟨t, ht⟩ := step_full hm ha
  obtain ⟨hentry, hrob⟩ := step_in_flight hc.size_le ha hmis ht hex
  obtain ⟨-, hfatal⟩ := onlyTwoEventsEndRun s t ha ht
  exact ⟨t, ht, hfatal.2 ⟨⟨p, hsel, hop⟩, hmis⟩, cdbOf_of_execute hex, hentry, hrob⟩

/-- Settles O55: issued into the empty pipeline, the INVALID entry is the head, busy and alone in flight, so it is what Execute selects
in the next cycle; nothing retires in either. -/
theorem unrecognisedWordBecomesFatal : Obligations.UnrecognisedWordBecomesFatal := by
  intro s w hd hm hw hinvalid
  obtain ⟨i, hcycle⟩ := activeCycle_of_drained hd hm (invalidPlan s.pc)
  have hstep1 : step s = .next (applyIssue s s none false (invalidPlan s.pc) i) := by
    rw [step_of_fetchWord (fetchActs_of_drained hd) hw, wordPlan_of_invalid hinvalid, hcycle]
  have hhead := head_applyIssue_of_empty hd.size none false (invalidPlan s.pc) i
  have hc1 := hd.consistent.step_active hd.active hstep1
  generalize ht1 : applyIssue s s none false (invalidPlan s.pc) i = t1 at hstep1 hhead hc1
  have ha1 : Active t1 := by subst ht1; exact hd.active
  have hm1 : FullMemory t1 := by subst ht1; exact hm
  have hsize1 : t1.robSize = 1 := by subst ht1; simp [hd.size]
  have hbusy1 : (head t1).busy = true := by rw [hhead]; rfl
  have hready1 : ¬ HeadReady t1 := fun ⟨_, hready⟩ => by simp [hbusy1] at hready
  obtain ⟨p, hsel, hdest⟩ := hc1.select_sole hsize1 hbusy1
  have hop : (entryAt t1 p).op = .invalid := by rw [hc1.head_op hsel hdest, hhead]; rfl
  obtain ⟨t2, hstep2, hfatal2, -⟩ := invalidFireIsFatal t1 p hm1 hc1 ha1 (fun hmis => hready1 hmis.1) hsel hop
  obtain ⟨hregs, hmem⟩ := step_frame_of_not_headReady ha1 hready1 hstep2
  obtain ⟨⟨-, hfatal1⟩, -⟩ := ha1
  refine ⟨t1, t2, hstep1, hstep2, hfatal1, ?_, hfatal2, fun r => ?_, fun a => ?_, ?_⟩
  · subst ht1; rfl
  · subst ht1; rw [readReg, hregs]; rfl
  · subst ht1; rw [hmem]; rfl
  · subst ht1; exact hd.aliases

end Sys2Proof.Proofs
end

section
/-! PROOFS, `43_ops_upper_imm.md`. An instruction that is issued into the empty pipeline, followed through its fire to its commit, for
every instruction that retires by the write of a register; LUI and AUIPC among them (R200, R201, R367). -/

namespace Sys2Proof.Machine

open Safety

/-! ### What a step keeps (R124, R295) -/

/-- No step changes the open parameters. -/
theorem step_params {s t : State} (ha : Active s) (h : step s = .next t) : t.params = s.params := by
  rcases step_active ha h with ⟨_, rfl⟩ | ⟨ex, cm, _, _, _, ⟨_, rfl⟩ | ⟨w, i, _, _, rfl⟩⟩ <;> simp

/-- Only a misprediction raises `flush` (R295). -/
theorem step_flush_of_not_mispredicts {s t : State} (ha : Active s) (hmis : ¬ Mispredicts s) (h : step s = .next t) :
    t.flush = false := by
  rcases step_active ha h with ⟨hmis', _⟩ | ⟨ex, cm, _, _, _, ⟨_, rfl⟩ | ⟨w, i, _, _, rfl⟩⟩
  · exact absurd hmis' hmis
  · simpa using ha.2
  · simpa using ha.2

/-! ### The class of register-writing operations (R292, R299) -/

theorem RobEntry.commitClass_eq_register_iff (e : RobEntry) :
    e.commitClass = .register ↔ e.halt = false ∧ e.op.commitClass = .register := by
  cases h : e.halt <;> simp [RobEntry.commitClass, h]

/-- In an issued entry the mark and the operation agree, so it retires in the class of its operation. -/
theorem commitClass_issuedRob (i : Instr) (s : State) : (issuedRob s (planOf i s)).commitClass = (recordOf i).op.commitClass := by
  cases i <;> rfl

/-- The step in which a head of this class retires writes its register and nothing else that outlives the pipeline. -/
theorem step_of_register_head {s : State} (hm : FullMemory s) (ha : Active s) (hready : HeadReady s)
    (hclass : (head s).commitClass = .register) :
    ∃ t, step s = .next t ∧ (∀ r : Reg, readReg t r = if r = (head s).rd ∧ r ≠ 0 then (head s).value else readReg s r) ∧
      (∀ a : Word, memByte t.mem a = memByte s.mem a) ∧ t.predCtr = s.predCtr ∧ t.flush = false ∧ t.halted = false ∧
      t.params = s.params := by
  obtain ⟨hmark, hopClass⟩ := (RobEntry.commitClass_eq_register_iff _).1 hclass
  have hmis : ¬ Mispredicts s := fun ⟨_, hbranch, _⟩ => by
    simp [(RobEntry.commitClass_eq_branch_iff _).2 hbranch] at hclass
  obtain ⟨t, hstep, hregs, hmem, -, hctr, hhalted, -⟩ := Proofs.registerCommit s hm ha hready hmark
    ((Op.writesReg_iff _).2 (.inl hopClass)) (fun h => by simp [h, Op.commitClass] at hopClass)
    (fun h => by simp [h, Op.commitClass] at hopClass)
  exact ⟨t, hstep, hregs, hmem, hctr, step_flush_of_not_mispredicts ha hmis hstep, hhalted, step_params ha hstep⟩

/-! ### The cycle in which the head fires (R177, R290) -/

/-- `t` comes after a cycle from `s` in which the head fired with value `v` and `taddr` `ta`: the head is complete and has yet to retire, and
no register, no byte of memory and no counter has changed. -/
structure HeadFired (s t : State) (v : Word) (ta : Option Word) : Prop where
  active : Active t
  ready : HeadReady t
  head_eq : head t = { head s with busy := false, value := v, addr := ta.getD (head s).addr }
  regs : t.regs = s.regs
  mem : t.mem = s.mem
  predCtr : t.predCtr = s.predCtr
  params : t.params = s.params

/-- The step in which a busy head fires, whatever is issued beside it. -/
theorem step_of_head_fires {s : State} {f : Fire} (hc : Consistent s) (hm : FullMemory s) (ha : Active s) (h0 : s.robSize ≠ 0)
    (hbusy : (head s).busy = true) (hex : execute s = .ok (.fired f)) (hdest : f.dest = s.robHead) :
    ∃ t, step s = .next t ∧ HeadFired s t f.value f.taddr := by
  have hnot : ¬ HeadReady s := fun ⟨_, hready⟩ => by simp [hbusy] at hready
  have hmis : ¬ Mispredicts s := fun hmis => hnot hmis.1
  obtain ⟨t, ht⟩ := step_full hm ha
  obtain ⟨ex, cm, hcm, -, hover⟩ := step_issuedOver ha ht hmis
  cases (commit_of_not_headReady hnot).symm.trans hcm
  have hrobHead : t.robHead = s.robHead := by simp [hover.robHead, applyCommit]
  have hhead : head t = { head s with busy := false, value := f.value, addr := f.taddr.getD (head s).addr } := by
    obtain ⟨-, hrob⟩ := step_in_flight hc.size_le ha hmis ht hex
    rw [head, hrobHead, hrob _ (occupied_head h0), applyExecute, robAt_applyFire, if_pos hdest.symm]
    rfl
  have hrunning : Running t := by
    obtain ⟨hhalted, hfatal⟩ := Proofs.onlyTwoEventsEndRun s t ha ht
    exact ⟨by simp [← Bool.not_eq_true, hhalted, hnot], by simp [← Bool.not_eq_true, hfatal, ← execute_fatal_iff, hex]⟩
  have hsize : t.robSize ≠ 0 := by
    have hle := hc.size_le
    have hcommitted : (committed s ex .idle).robSize = s.robSize := committed_robSize_of_not_headReady ex hcm hnot
    by_cases hi : ∃ w, IssuesWord s w
    · rw [hover.size_issued hi, hcommitted]
      bv_omega
    · rwa [hover.size_held hi, hcommitted]
  obtain ⟨hregs, hmem⟩ := step_frame_of_not_headReady ha hnot ht
  exact ⟨t, ht, ⟨hrunning, step_flush_of_not_mispredicts ha hmis ht⟩, ⟨hsize, by rw [hhead]⟩, hhead, hregs, hmem,
    by simp [hover.predCtr, applyCommit], step_params ha ht⟩

/-! ### The instruction that is alone in the pipeline (R159, R367) -/

/-- The state after the issue of `i` into the empty pipeline (`exec_of_drained`). -/
abbrev issuedAlone (i : Instr) (s : State) : State := applyIssue s s none false (planOf i s) 0

section
variable {s : State} (hd : Drained s) (i : Instr)
include hd

theorem issuedAlone_consistent (hm : FullMemory s) : Consistent (issuedAlone i s) := by
  obtain ⟨j, hexec, hc⟩ := hd.exec i
  rwa [Host.Outcome.next.inj (hexec.symm.trans (exec_of_drained i hd hm))] at hc

theorem head_issuedAlone : head (issuedAlone i s) = issuedRob s (planOf i s) := head_applyIssue_of_empty hd.size ..

theorem issuedAlone_robSize : (issuedAlone i s).robSize = 1 := by simp [hd.size]

/-- The one busy slot holds the entry of the instruction. -/
theorem entryAt_issuedAlone_of_busy {p : Pick} (hp : (entryAt (issuedAlone i s) p).busy = true) :
    entryAt (issuedAlone i s) p = issuedEntry s none (planOf i s) := by
  by_cases hslot : p = ⟨routeOf (planOf i s).op, 0⟩
  · subst hslot
    exact entryAt_applyIssue_new _
  · rw [entryAt_applyIssue_old _ hslot, hd.stations] at hp
    cases hp

/-- Whatever `SELECT` is, the entry of the instruction is what fires. -/
theorem execute_issuedAlone (hm : FullMemory s) {v : Word} {ta : Option Word}
    (hfire : fireEntry (issuedAlone i s) (issuedEntry s none (planOf i s)) = .ok (.result v ta)) :
    ∃ p, execute (issuedAlone i s) = .ok (.fired { pick := p, dest := s.robHead, value := v, taddr := ta }) := by
  obtain ⟨p, hsel, hdest⟩ := (issuedAlone_consistent hd i hm).select_sole (issuedAlone_robSize hd i) (by rw [head_issuedAlone hd i]; rfl)
  have hentry := entryAt_issuedAlone_of_busy hd i (eligible_ready (select_eligible hsel)).1
  rw [hentry] at hdest
  exact ⟨p, by simp [execute, hsel, hentry, hfire, hdest]⟩

/-- The cycle after the issue. -/
theorem step_issuedAlone (hm : FullMemory s) {v : Word} {ta : Option Word}
    (hfire : fireEntry (issuedAlone i s) (issuedEntry s none (planOf i s)) = .ok (.result v ta)) :
    ∃ t, step (issuedAlone i s) = .next t ∧ HeadFired (issuedAlone i s) t v ta := by
  obtain ⟨p, hex⟩ := execute_issuedAlone hd i hm hfire
  exact step_of_head_fires (issuedAlone_consistent hd i hm) hm hd.active (by rw [issuedAlone_robSize hd i]; decide)
    (by rw [head_issuedAlone hd i]; rfl) hex rfl

/-- An instruction of the class of register-writing operations, alone in the pipeline, writes what its entry computes when it fires
(R299, R367). -/
theorem writesRegister_of_fires (hm : FullMemory s) {v : Word} {ta : Option Word} (hclass : (recordOf i).op.commitClass = .register)
    (hfire : fireEntry (issuedAlone i s) (issuedEntry s none (planOf i s)) = .ok (.result v ta)) :
    WritesRegister i s (recordOf i).rd v (planOf i s).nextPc := by
  obtain ⟨t2, hstep1, hfired⟩ := step_issuedAlone hd i hm hfire
  have hm2 : FullMemory t2 := by rw [FullMemory, hfired.params]; exact hm
  have hhead := hfired.head_eq
  rw [head_issuedAlone hd i] at hhead
  have hclass2 : (head t2).commitClass = .register := by rw [hhead, ← hclass, ← commitClass_issuedRob i s]; rfl
  have hrd : (head t2).rd = (recordOf i).rd := by rw [hhead, ← planOf_rd i s]; rfl
  have hvalue : (head t2).value = v := by rw [hhead]
  have hread : ∀ r, readReg t2 r = readReg s r := fun r => by simp [readReg, hfired.regs]
  obtain ⟨t3, hstep2, hregs, hmem, hctr, hflush, hhalted, hparams⟩ := step_of_register_head hm2 hfired.active hfired.ready hclass2
  obtain ⟨⟨-, hfatal⟩, -⟩ := hfired.active
  exact ⟨issuedAlone i s, t2, t3, ⟨exec_of_drained i hd hm, hstep1, hstep2⟩, rfl, fun r => by rw [hregs, hrd, hvalue, hread], hread,
    fun a => by rw [hmem, hfired.mem]; rfl, hctr.trans hfired.predCtr, hflush, hhalted, hfatal, hparams.trans hfired.params⟩

end

/-! ### What LUI and AUIPC compute (R200, R201) -/

section
variable (s t : State) (cdb : Option Cdb) (rd : Reg) (imm : Word)

theorem fireEntry_lui : fireEntry t (issuedEntry s cdb (planOf (.lui rd imm) s)) = .ok (.result imm none) := rfl

/-- AUIPC adds its immediate to its own address, which Issue put into `vj` (R149). -/
theorem fireEntry_auipc : fireEntry t (issuedEntry s cdb (planOf (.auipc rd imm) s)) = .ok (.result (s.pc + imm) none) := rfl

end

end Sys2Proof.Machine

namespace Sys2Proof.Proofs

open Sys2Proof.Machine Sys2Proof.Safety

/-- Settles O45: each of the two, alone in the pipeline, writes what its entry computes, and neither redirects the pc. -/
theorem upperImmediatesComplete : Obligations.UpperImmediatesComplete := by
  intro s hd hm rd imm
  constructor
  · exact writesRegister_of_fires hd (.lui rd imm) hm rfl (fireEntry_lui ..)
  · exact writesRegister_of_fires hd (.auipc rd imm) hm rfl (fireEntry_auipc ..)

end Sys2Proof.Proofs
end

section
/-! PROOFS, `44_ops_load_store.md`. What the loads and the stores capture at issue and compute when they fire, and the commit of a store
that is alone in the pipeline (R210 to R219, R367). -/

namespace Sys2Proof.Machine

open Safety

/-! ### The rows of the loads and stores in the tables of Issue and Execute (R149, R157, R176) -/

theorem Op.isStore_iff (op : Op) : op.isStore = true ↔ op = .sb ∨ op = .sh ∨ op = .sw := by
  cases op <;> simp [Op.isStore]

theorem planOf_of_isLoad {i : Instr} (s : State) (h : (recordOf i).op.isLoad = true) :
    planOf i s = regImmPlan (recordOf i) s.pc := by
  cases i <;> simp [recordOf, Op.isLoad] at h <;> rfl

theorem planOf_of_isStore {i : Instr} (s : State) (h : (recordOf i).op.isStore = true) :
    planOf i s = regRegPlan (recordOf i) s.pc := by
  cases i <;> simp [recordOf, Op.isStore] at h <;> rfl

/-- What a load makes of the raw zero-extended quantity it reads (R176). -/
def loadExtend : Op → Word → Word
  | .lb => sext8
  | .lh => sext16
  | .lbu => zext8
  | .lhu => zext16
  | _ => id

/-- No load is refused when `MEM_BYTES` is its default. -/
theorem fireEntry_load_full {s : State} (hm : FullMemory s) {e : StationEntry} (h : e.op.isLoad = true) :
    fireEntry s e = .ok (.result (loadExtend e.op (memRead s.mem (effectiveAddress e) e.op.width)) none) := by
  have hread := readPort_full hm .load (effectiveAddress e)
  obtain hop | hop | hop | hop | hop := (Op.isLoad_iff e.op).1 h
  · rw [fireEntry, hop]; simp only [fireLb, hread]; rfl
  · rw [fireEntry, hop]; simp only [fireLh, hread]; rfl
  · rw [fireEntry, hop]; simp only [fireLw, hread]; rfl
  · rw [fireEntry, hop]; simp only [fireLbu, hread]; rfl
  · rw [fireEntry, hop]; simp only [fireLhu, hread]; rfl

theorem fireEntry_of_isStore (s : State) {e : StationEntry} (h : e.op.isStore = true) :
    fireEntry s e = .ok (.result e.vk (some (effectiveAddress e))) := by
  obtain hop | hop | hop := (Op.isStore_iff e.op).1 h
  all_goals rw [fireEntry, hop]; rfl

/-! ### The extension of what was read (R211 to R215) -/

theorem sext8_memRead (m : Mem) (a : Word) : sext8 (memRead m a .byte) = (memByte m a).signExtend 32 := by
  simp [sext8, memRead]

theorem sext16_memRead (m : Mem) (a : Word) :
    sext16 (memRead m a .half) = (memByte m (a + 1) ++ memByte m a : BitVec 16).signExtend 32 := by
  simp [sext16, memRead]

theorem zext8_memRead (m : Mem) (a : Word) : zext8 (memRead m a .byte) = (memByte m a).setWidth 32 := by
  simp [zext8, memRead]

theorem zext16_memRead (m : Mem) (a : Word) :
    zext16 (memRead m a .half) = (memByte m (a + 1) ++ memByte m a : BitVec 16).setWidth 32 := by
  simp [zext16, memRead]

/-! ### The operands captured in a drained state (R146) -/

section
variable {s : State} (hd : Drained s) (cdb : Option Cdb)
include hd

/-- With no alias busy every source register is read. -/
theorem capture_reg_of_drained (free : Word) (r : Reg) : capture s cdb free (.reg r) = { value := readReg s r, tag := none } := by
  by_cases hr : r = 0
  · simp [capture, resolve, readReg, hr]
  · simp only [capture, resolve, if_neg hr, if_pos (hd.aliases r)]

theorem issuedEntry_vj_of_drained {p : IssuePlan} {r : Reg} (hj : p.j = .reg r) : (issuedEntry s cdb p).vj = readReg s r := by
  rw [issuedEntry, hj, capture_reg_of_drained hd]

theorem issuedEntry_vk_of_drained {p : IssuePlan} {r : Reg} (hk : p.k = .reg r) : (issuedEntry s cdb p).vk = readReg s r := by
  rw [issuedEntry, hk, capture_reg_of_drained hd]

/-- The effective address is `x[rs1] + imm` (R69). -/
theorem effectiveAddress_of_drained {p : IssuePlan} {r : Reg} (hj : p.j = .reg r) :
    effectiveAddress (issuedEntry s cdb p) = readReg s r + p.imm := by
  rw [effectiveAddress, issuedEntry_vj_of_drained hd cdb hj]
  rfl

end

/-! ### The step in which a store retires (R298) -/

/-- An issued entry carries the mark of the sentinel only for the sentinel. -/
theorem issuedRob_not_halt_of_isStore {i : Instr} (s : State) (h : (recordOf i).op.isStore = true) :
    (issuedRob s (planOf i s)).halt = false := by
  rw [planOf_of_isStore s h]
  rfl

/-- The retirement of a ready store, beside its bytes and the registers (`StoreCommit`), leaves the counter, the terminal flags and the
parameters alone. -/
theorem step_of_store_head {s : State} (hm : FullMemory s) (hwf : s.mem.wf = true) (ha : Active s) (hready : HeadReady s)
    (hmark : (head s).halt = false) (hstore : (head s).op.isStore = true) :
    ∃ t, step s = .next t ∧
      (∀ a : Word, inAccess (head s).addr (head s).op.width a = false → memByte t.mem a = memByte s.mem a) ∧
      (∀ k : Nat, k < (head s).op.width.bytes →
        memByte t.mem ((head s).addr + BitVec.ofNat 32 k) = (head s).value.extractLsb' (8 * k) 8) ∧
      (∀ r : Reg, readReg t r = readReg s r) ∧ t.predCtr = s.predCtr ∧ t.flush = false ∧ t.halted = false ∧ t.params = s.params := by
  have hclass : (head s).commitClass = .store := (RobEntry.commitClass_eq_store_iff _).2 ⟨hmark, hstore⟩
  have hmis : ¬ Mispredicts s := fun ⟨_, hbranch, _⟩ => by
    simp [(RobEntry.commitClass_eq_branch_iff _).2 hbranch] at hclass
  obtain ⟨t, hstep, houtside, hinside, hregs, -, hctr, -⟩ := Proofs.storeCommit s hm hwf ha hready hmark hstore
  have hhalted : t.halted = false := by
    obtain ⟨hiff, -⟩ := Proofs.onlyTwoEventsEndRun s t ha hstep
    rw [← Bool.not_eq_true, hiff, ← RobEntry.commitClass_eq_halt_iff, hclass]
    simp
  exact ⟨t, hstep, houtside, hinside, hregs, hctr, step_flush_of_not_mispredicts ha hmis hstep, hhalted, step_params ha hstep⟩

/-! ### A load or a store that is alone in the pipeline (R210, R216, R367) -/

section
variable {s : State} (hd : Drained s) (hm : FullMemory s) (i : Instr)
include hd hm

/-- Every load writes the extension of what stands at its effective address when it is fetched: nothing writes memory before it fires. -/
theorem writesRegister_of_isLoad (hload : (recordOf i).op.isLoad = true) :
    WritesRegister i s (recordOf i).rd
      (loadExtend (recordOf i).op (memRead s.mem (readReg s (recordOf i).rs1 + (recordOf i).imm) (recordOf i).op.width))
      (s.pc + 4) := by
  have hplan := planOf_of_isLoad s hload
  have hclass : (recordOf i).op.commitClass = .register := by
    obtain hop | hop | hop | hop | hop := (Op.isLoad_iff _).1 hload
    all_goals rw [hop]; rfl
  have hfire : fireEntry (issuedAlone i s) (issuedEntry s none (planOf i s)) = .ok (.result (loadExtend (recordOf i).op
      (memRead s.mem (readReg s (recordOf i).rs1 + (recordOf i).imm) (recordOf i).op.width)) none) := by
    have hop : (issuedEntry s none (planOf i s)).op = (recordOf i).op := planOf_op i s
    have haddr := effectiveAddress_of_drained hd none (p := planOf i s) (r := (recordOf i).rs1) (by rw [hplan]; rfl)
    rw [fireEntry_load_full (s := issuedAlone i s) hm (hop ▸ hload), hop, haddr, planOf_imm]
    rfl
  have hnext : (planOf i s).nextPc = s.pc + 4 := by rw [hplan]; rfl
  exact hnext ▸ writesRegister_of_fires hd i hm hclass hfire

/-- Every store writes, when it commits, the low bytes of `x[rs2]` as it was at issue; until then they wait in its ROB entry (R298). -/
theorem storesBytes_of_isStore (hwf : s.mem.wf = true) (hstore : (recordOf i).op.isStore = true) :
    StoresBytes i s (readReg s (recordOf i).rs1 + (recordOf i).imm) (recordOf i).op.width (readReg s (recordOf i).rs2) := by
  have hplan := planOf_of_isStore s hstore
  have hfire : fireEntry (issuedAlone i s) (issuedEntry s none (planOf i s)) =
      .ok (.result (readReg s (recordOf i).rs2) (some (readReg s (recordOf i).rs1 + (recordOf i).imm))) := by
    have hop : (issuedEntry s none (planOf i s)).op = (recordOf i).op := planOf_op i s
    rw [fireEntry_of_isStore _ (hop ▸ hstore), effectiveAddress_of_drained hd none (r := (recordOf i).rs1) (by rw [hplan]; rfl),
      issuedEntry_vk_of_drained hd none (r := (recordOf i).rs2) (by rw [hplan]; rfl), planOf_imm]
  obtain ⟨t2, hstep1, hfired⟩ := step_issuedAlone hd i hm hfire
  have hm2 : FullMemory t2 := by rw [FullMemory, hfired.params]; exact hm
  have hmem2 : t2.mem = s.mem := hfired.mem
  have hhead := hfired.head_eq
  rw [head_issuedAlone hd i] at hhead
  have hop : (head t2).op = (recordOf i).op := by rw [hhead, ← planOf_op i s]; rfl
  have hmark : (head t2).halt = false := by rw [hhead]; exact issuedRob_not_halt_of_isStore s hstore
  have hvalue : (head t2).value = readReg s (recordOf i).rs2 := by rw [hhead]
  have haddr : (head t2).addr = readReg s (recordOf i).rs1 + (recordOf i).imm := by rw [hhead]; rfl
  have hread : ∀ r, readReg t2 r = readReg s r := fun r => by simp [readReg, hfired.regs]
  obtain ⟨t3, hstep2, houtside, hinside, hregs, hctr, hflush, hhalted, hparams⟩ :=
    step_of_store_head hm2 (hmem2 ▸ hwf) hfired.active hfired.ready hmark (hop ▸ hstore)
  rw [hop, haddr, hmem2] at houtside
  rw [hop, haddr, hvalue] at hinside
  obtain ⟨⟨-, hfatal⟩, -⟩ := hfired.active
  exact ⟨issuedAlone i s, t2, t3, ⟨exec_of_drained i hd hm, hstep1, hstep2⟩, by rw [issuedAlone, hplan]; rfl, houtside, hinside,
    fun a => by rw [hmem2], fun r => by rw [hregs, hread], hctr.trans hfired.predCtr, hflush, hhalted, hfatal,
    hparams.trans hfired.params⟩

end

end Sys2Proof.Machine

namespace Sys2Proof.Proofs

open Sys2Proof.Machine Sys2Proof.Safety

/-- Settles O46: each load writes the extension of what it reads, in the bytes of its own width. -/
theorem loadsComplete : Obligations.LoadsComplete := by
  intro s hd hm rd rs1 imm
  refine ⟨?lb, ?lh, ?lw, ?lbu, ?lhu⟩
  case lb => exact sext8_memRead .. ▸ writesRegister_of_isLoad hd hm (.lb rd rs1 imm) rfl
  case lh => exact sext16_memRead .. ▸ writesRegister_of_isLoad hd hm (.lh rd rs1 imm) rfl
  case lw => exact writesRegister_of_isLoad hd hm (.lw rd rs1 imm) rfl
  case lbu => exact zext8_memRead .. ▸ writesRegister_of_isLoad hd hm (.lbu rd rs1 imm) rfl
  case lhu => exact zext16_memRead .. ▸ writesRegister_of_isLoad hd hm (.lhu rd rs1 imm) rfl

/-- Settles O47: the three stores differ in their width alone. -/
theorem storesComplete : Obligations.StoresComplete := by
  intro s hd hm hwf rs1 rs2 imm
  refine ⟨?sb, ?sh, ?sw⟩
  case sb => exact storesBytes_of_isStore hd hm (.sb rs1 rs2 imm) hwf rfl
  case sh => exact storesBytes_of_isStore hd hm (.sh rs1 rs2 imm) hwf rfl
  case sw => exact storesBytes_of_isStore hd hm (.sw rs1 rs2 imm) hwf rfl

end Sys2Proof.Proofs
end

section
/-! PROOFS, `45_ops_imm_arith.md`. What an operation of the ALU computes when it fires, the rows of the nine register-immediate operations
in the terms of integers, and these operations from their fetch to their commit (R188, R229 to R238, R367). -/

namespace Sys2Proof.Machine

open Safety

/-! ### An operation of the ALU, alone in the pipeline (R176, R188) -/

/-- An operation with a row in the table of R189 computes what its row says, and has no `taddr`. -/
theorem fireEntry_of_alu (s : State) {e : StationEntry} {v : Word} (h : alu e.op e.vj e.vk e.imm = some v) :
    fireEntry s e = .ok (.result v none) := by
  have hrow : fireEntry s e = .ok (Computed.ofAlu (alu e.op e.vj e.vk e.imm)) := by
    cases hop : e.op
    case lb | lh | lw | lbu | lhu | sb | sh | sw | jalr => simp [hop, alu] at h
    all_goals rw [fireEntry, hop]
  rw [hrow, h]
  rfl

section
variable {s : State} (hd : Drained s) (hm : FullMemory s) (i : Instr)
include hd hm

/-- An instruction of the ALU writes what its row makes of the operands that Issue captured. -/
theorem writesRegister_of_alu {v : Word} (hclass : (recordOf i).op.commitClass = .register)
    (halu : alu (recordOf i).op (issuedEntry s none (planOf i s)).vj (issuedEntry s none (planOf i s)).vk (recordOf i).imm = some v) :
    WritesRegister i s (recordOf i).rd v (planOf i s).nextPc := by
  rw [← planOf_op i s, ← planOf_imm i s] at halu
  exact writesRegister_of_fires hd i hm hclass (fireEntry_of_alu _ halu)

/-- One that is issued with `Resolve(rs1)` and its immediate writes what its row makes of `x[rs1]` and the immediate (R149, R229). -/
theorem writesRegister_of_regImm {v : Word} (hplan : planOf i s = regImmPlan (recordOf i) s.pc)
    (hclass : (recordOf i).op.commitClass = .register)
    (halu : alu (recordOf i).op (readReg s (recordOf i).rs1) 0 (recordOf i).imm = some v) :
    WritesRegister i s (recordOf i).rd v (s.pc + 4) := by
  have hvj : (issuedEntry s none (planOf i s)).vj = readReg s (recordOf i).rs1 :=
    issuedEntry_vj_of_drained hd none (by rw [hplan]; rfl)
  have hvk : (issuedEntry s none (planOf i s)).vk = 0 := by rw [hplan]; rfl
  have hnext : (planOf i s).nextPc = s.pc + 4 := by rw [hplan]; rfl
  exact hnext ▸ writesRegister_of_alu hd hm i hclass (by rw [hvj, hvk, halu])

end

/-! ### The comparisons (R231, R232, R239) -/

theorem boolWord_signedLess (a b : Word) : boolWord (signedLess a b) = if a.toInt < b.toInt then 1 else 0 := by
  simp [boolWord, signedLess]

theorem boolWord_unsignedLess (a b : Word) : boolWord (unsignedLess a b) = if a.toNat < b.toNat then 1 else 0 := by
  simp [boolWord, unsignedLess]

/-! ### The shifts as multiplication and division (R236 to R238) -/

section
variable {w : Nat} (x : BitVec w) (n : Nat)

theorem shiftLeft_eq_ofNat_mul : x <<< n = BitVec.ofNat w (x.toNat * 2 ^ n) := by
  apply BitVec.eq_of_toNat_eq
  rw [BitVec.toNat_shiftLeft, Nat.shiftLeft_eq, BitVec.toNat_ofNat]

theorem ushiftRight_eq_ofNat_div : x >>> n = BitVec.ofNat w (x.toNat / 2 ^ n) := by
  apply BitVec.eq_of_toNat_eq
  have hlt : x.toNat / 2 ^ n < 2 ^ w := (Nat.div_le_self ..).trans_lt x.isLt
  rw [BitVec.toNat_ushiftRight, Nat.shiftRight_eq_div_pow, BitVec.toNat_ofNat, Nat.mod_eq_of_lt hlt]

/-- The division of integers is by a positive number, so it is floor division. -/
theorem sshiftRight_eq_ofInt_div : x.sshiftRight n = BitVec.ofInt w (x.toInt / 2 ^ n) := by
  rw [BitVec.sshiftRight_eq, Int.shiftRight_eq_div_pow]
  norm_cast

end

/-- An immediate shift takes its amount from the record, where it stands zero-extended (R95). -/
theorem shiftAmount_setWidth (shamt : BitVec 5) : shiftAmount (shamt.setWidth 32) = shamt.toNat := by
  simp [shiftAmount]

section
variable (a : Word) (shamt : BitVec 5)

theorem aluSlli_setWidth : aluSlli a (shamt.setWidth 32) = BitVec.ofNat 32 (a.toNat * 2 ^ shamt.toNat) := by
  rw [aluSlli, shiftAmount_setWidth, shiftLeft_eq_ofNat_mul]

theorem aluSrli_setWidth : aluSrli a (shamt.setWidth 32) = BitVec.ofNat 32 (a.toNat / 2 ^ shamt.toNat) := by
  rw [aluSrli, shiftAmount_setWidth, ushiftRight_eq_ofNat_div]

theorem aluSrai_setWidth : aluSrai a (shamt.setWidth 32) = BitVec.ofInt 32 (a.toInt / 2 ^ shamt.toNat) := by
  rw [aluSrai, shiftAmount_setWidth, sshiftRight_eq_ofInt_div]

end

end Sys2Proof.Machine

namespace Sys2Proof.Proofs

open Sys2Proof.Machine Sys2Proof.Safety

/-- Settles O48: each of the six writes its row of the ALU's table at `x[rs1]` and the immediate. -/
theorem immediateArithmeticCompletes : Obligations.ImmediateArithmeticCompletes := by
  intro s hd hm rd rs1 imm
  refine ⟨?addi, ?slti, ?sltiu, ?xori, ?ori, ?andi⟩
  case addi => exact writesRegister_of_regImm hd hm (.addi rd rs1 imm) rfl rfl rfl
  case slti => exact writesRegister_of_regImm hd hm (.slti rd rs1 imm) rfl rfl (congrArg some (boolWord_signedLess ..))
  case sltiu => exact writesRegister_of_regImm hd hm (.sltiu rd rs1 imm) rfl rfl (congrArg some (boolWord_unsignedLess ..))
  case xori => exact writesRegister_of_regImm hd hm (.xori rd rs1 imm) rfl rfl rfl
  case ori => exact writesRegister_of_regImm hd hm (.ori rd rs1 imm) rfl rfl rfl
  case andi => exact writesRegister_of_regImm hd hm (.andi rd rs1 imm) rfl rfl rfl

/-- Settles O49: the rows of the three shifts, at an amount below 32, are the multiplication and the two divisions by its power of two. -/
theorem immediateShiftsComplete : Obligations.ImmediateShiftsComplete := by
  intro s hd hm rd rs1 shamt
  refine ⟨?slli, ?srli, ?srai⟩
  case slli => exact writesRegister_of_regImm hd hm (.slli rd rs1 shamt) rfl rfl (congrArg some (aluSlli_setWidth ..))
  case srli => exact writesRegister_of_regImm hd hm (.srli rd rs1 shamt) rfl rfl (congrArg some (aluSrli_setWidth ..))
  case srai => exact writesRegister_of_regImm hd hm (.srai rd rs1 shamt) rfl rfl (congrArg some (aluSrai_setWidth ..))

end Sys2Proof.Proofs
end

section
/-! PROOFS, `46_ops_reg_arith.md`. The rows of the ten register-register operations at the two registers read when they are issued, and
these operations from their fetch to their commit (R249 to R259, R367). -/

namespace Sys2Proof.Machine

open Safety

/-! ### An operation on two registers, alone in the pipeline (R149, R249) -/

/-- One that is issued with `Resolve(rs1)` and `Resolve(rs2)` writes what its row makes of `x[rs1]` and `x[rs2]`. -/
theorem writesRegister_of_regReg {s : State} (hd : Drained s) (hm : FullMemory s) (i : Instr) {v : Word}
    (hplan : planOf i s = regRegPlan (recordOf i) s.pc) (hclass : (recordOf i).op.commitClass = .register)
    (halu : alu (recordOf i).op (readReg s (recordOf i).rs1) (readReg s (recordOf i).rs2) (recordOf i).imm = some v) :
    WritesRegister i s (recordOf i).rd v (s.pc + 4) := by
  have hvj : (issuedEntry s none (planOf i s)).vj = readReg s (recordOf i).rs1 :=
    issuedEntry_vj_of_drained hd none (by rw [hplan]; rfl)
  have hvk : (issuedEntry s none (planOf i s)).vk = readReg s (recordOf i).rs2 :=
    issuedEntry_vk_of_drained hd none (by rw [hplan]; rfl)
  have hnext : (planOf i s).nextPc = s.pc + 4 := by rw [hplan]; rfl
  exact hnext ▸ writesRegister_of_alu hd hm i hclass (by rw [hvj, hvk, halu])

/-! ### The shifts by a register (R239, R252, R256, R257) -/

/-- Bits 4:0 of the second operand are its remainder modulo 32: the bits above do not count. -/
theorem shiftAmount_eq_mod (x : Word) : shiftAmount x = x.toNat % 32 := by
  rw [shiftAmount, BitVec.toNat_setWidth]

theorem aluSll_eq (a b : Word) : aluSll a b = a <<< (b.toNat % 32) := by
  rw [aluSll, shiftAmount_eq_mod]

theorem aluSrl_eq (a b : Word) : aluSrl a b = a >>> (b.toNat % 32) := by
  rw [aluSrl, shiftAmount_eq_mod]

theorem aluSra_eq (a b : Word) : aluSra a b = a.sshiftRight (b.toNat % 32) := by
  rw [aluSra, shiftAmount_eq_mod]

end Sys2Proof.Machine

namespace Sys2Proof.Proofs

open Sys2Proof.Machine Sys2Proof.Safety

/-- Settles O50: each of the ten writes its row of the ALU's table at `x[rs1]` and `x[rs2]`; the comparisons are read as
comparisons of integers, the shift amount as the remainder modulo 32. -/
theorem registerArithmeticCompletes : Obligations.RegisterArithmeticCompletes := by
  intro s hd hm rd rs1 rs2
  refine ⟨?add, ?sub, ?sll, ?slt, ?sltu, ?xor, ?srl, ?sra, ?or, ?and⟩
  case add => exact writesRegister_of_regReg hd hm (.add rd rs1 rs2) rfl rfl rfl
  case sub => exact writesRegister_of_regReg hd hm (.sub rd rs1 rs2) rfl rfl rfl
  case sll => exact writesRegister_of_regReg hd hm (.sll rd rs1 rs2) rfl rfl (congrArg some (aluSll_eq ..))
  case slt => exact writesRegister_of_regReg hd hm (.slt rd rs1 rs2) rfl rfl (congrArg some (boolWord_signedLess ..))
  case sltu => exact writesRegister_of_regReg hd hm (.sltu rd rs1 rs2) rfl rfl (congrArg some (boolWord_unsignedLess ..))
  case xor => exact writesRegister_of_regReg hd hm (.xor rd rs1 rs2) rfl rfl rfl
  case srl => exact writesRegister_of_regReg hd hm (.srl rd rs1 rs2) rfl rfl (congrArg some (aluSrl_eq ..))
  case sra => exact writesRegister_of_regReg hd hm (.sra rd rs1 rs2) rfl rfl (congrArg some (aluSra_eq ..))
  case or => exact writesRegister_of_regReg hd hm (.or rd rs1 rs2) rfl rfl rfl
  case and => exact writesRegister_of_regReg hd hm (.and rd rs1 rs2) rfl rfl rfl

end Sys2Proof.Proofs
end

section
/-! PROOFS, `48_commit.md`. What one cycle writes of the architectural state, the order in which the ids retire, the commit of a JALR and
the flush after a misprediction (R290, R291, R293, R295, R303, R304, R307). -/

namespace Sys2Proof.Machine

open Safety

/-! ### What a cycle writes of the architectural state (R298, R299, R303) -/

/-- `t` has the registers and the memory of `s`, but for the one register or the one access that the ready head of `s` writes. -/
inductive HeadWrites (s t : State) : Prop where
  | nothing (regs : t.regs = s.regs) (mem : t.mem = s.mem)
  | register (ready : HeadReady s) (writes : (head s).op.writesReg = true) (not_halt : (head s).op ≠ .halt)
      (regs : t.regs = Bank.put s.regs (head s).rd (head s).value) (mem : t.mem = s.mem)
  | store (ready : HeadReady s) (isStore : (head s).op.isStore = true) (regs : t.regs = s.regs)
      (mem : t.mem = memWrite s.mem (head s).addr (head s).op.width (head s).value)

/-- The two classes that write a register are operations that write one, and not the sentinel (R98, R292). -/
theorem RobEntry.writesReg_of_commitClass {e : RobEntry} (h : e.commitClass = .register ∨ e.commitClass = .jumpRegister) :
    e.op.writesReg = true ∧ e.op ≠ .halt := by
  have hclass : e.op.commitClass = .register ∨ e.op.commitClass = .jumpRegister := by
    cases hmark : e.halt with
    | true => simp [RobEntry.commitClass, hmark] at h
    | false => simpa [RobEntry.commitClass, hmark] using h
  refine ⟨(Op.writesReg_iff _).2 (hclass.imp_right .inl), fun hop => ?_⟩
  simp [hop, Op.commitClass] at hclass

theorem headWrites_committed {s : State} (ex : ExecResult) {cm : CommitResult} (hcm : commit s = .ok cm) :
    HeadWrites s (committed s ex cm) := by
  rcases commit_cases hcm with ⟨rfl, -⟩ | ⟨hsize, hbusy, ⟨rfl, -⟩ | ⟨c, rfl, hclass, -⟩⟩
  · exact .nothing (by simp [applyCommit]) (by simp [applyCommit])
  · exact .nothing (by simp [applyCommit]) (by simp [applyCommit])
  have hregs : (committed s ex (.retired c (head s))).regs =
      if (c = .register ∨ c = .jumpRegister) ∧ (head s).rd ≠ 0 then Bank.put s.regs (head s).rd (head s).value else s.regs := by
    simp [applyCommit, commitEffect_regs]
  have hmem : (committed s ex (.retired c (head s))).mem =
      if c = .store then memWrite s.mem (head s).addr (head s).op.width (head s).value else s.mem := by
    simp [applyCommit, commitEffect_mem]
  by_cases hstore : c = .store
  · subst hstore
    exact .store ⟨hsize, hbusy⟩ ((RobEntry.commitClass_eq_store_iff _).1 hclass).2 (hregs.trans (by simp)) (hmem.trans (by simp))
  rw [if_neg hstore] at hmem
  by_cases hreg : (c = .register ∨ c = .jumpRegister) ∧ (head s).rd ≠ 0
  · obtain ⟨hwrites, hhalt⟩ := RobEntry.writesReg_of_commitClass (hclass ▸ hreg.1)
    exact .register ⟨hsize, hbusy⟩ hwrites hhalt (hregs.trans (if_pos hreg)) hmem
  · exact .nothing (hregs.trans (if_neg hreg)) hmem

/-- A step or a meaning writes what the retiring head writes: Execute, Issue, a flush and an idle cycle write neither a register nor
memory (R303). -/
theorem headWrites_of_moves {s t : State} (h : Moves s t) : HeadWrites s t := by
  have hactive : ∀ {p}, activeCycle s p = .next t → HeadWrites s t := fun e => by
    obtain ⟨ex, cm, -, hcm, ⟨b, -, rfl⟩ | ⟨-, rfl⟩⟩ := activeCycle_cases e
    · exact .nothing rfl rfl
    · cases headWrites_committed ex hcm with
      | nothing regs mem => exact .nothing (by simp [regs]) (by simp [mem])
      | register ready writes hhalt regs mem => exact .register ready writes hhalt (by simp [regs]) (by simp [mem])
      | store ready isStore regs mem => exact .store ready isStore (by simp [regs]) (by simp [mem])
  obtain ⟨p, e⟩ := moves_is_cycle h
  rcases cycle_cases e with ⟨-, rfl⟩ | ⟨-, -, rfl⟩ | ⟨-, -, -, e⟩ | ⟨-, -, -, -, e⟩
  · exact .nothing rfl rfl
  · exact .nothing rfl rfl
  · exact hactive e
  · exact hactive e

theorem readReg_of_regs {s t : State} (h : t.regs = s.regs) (r : Reg) : readReg t r = readReg s r := by simp [readReg, h]

/-- A register that differs after one entry of the bank was replaced is that entry, and holds what was written. -/
theorem readReg_ne_of_put {s t : State} {d : Reg} {v : Word} (h : t.regs = Bank.put s.regs d v) {r : Reg}
    (hr : readReg t r ≠ readReg s r) : d = r ∧ readReg t r = v := by
  have hr0 : r ≠ 0 := fun h0 => hr (by simp [readReg, h0])
  have hd : d = r := by
    by_contra hd
    exact hr (by simp [readReg, h, Bank.get_put_ne _ _ hd])
  exact ⟨hd, by rw [readReg, if_neg hr0, h, hd, Bank.get_put_same]⟩

/-! ### The redirects of the pc (R293, R295) -/

/-- A misprediction discards what Fetch hands over and what Execute computes (R124, R181, R295). -/
theorem activeCycle_of_mispredicts {s : State} (hm : FullMemory s) (hmis : Mispredicts s) (h : Option IssuePlan) :
    activeCycle s h = .next (flushState s (head s)) := by
  obtain ⟨ex, hex⟩ := execute_full hm
  obtain ⟨b, hcm⟩ := (commit_mispredicted_iff s).2 hmis
  rcases commit_cases hcm with ⟨hb, -⟩ | ⟨-, -, ⟨hb, -⟩ | ⟨_, hb, -⟩⟩ <;> cases hb
  simp [activeCycle, hex, hcm, head]

@[simp] theorem entryAt_flushState_busy (s : State) (e : RobEntry) (p : Pick) : (entryAt (flushState s e) p).busy = false := by
  obtain ⟨st, i⟩ := p
  cases st <;> simp [entryAt, stationBank]

/-- The table of R314 in numbers. -/
theorem updateCtr_toNat (predicted actual : Bool) (c : BitVec 2) :
    (updateCtr predicted actual c).toNat = if predicted = true ∧ actual = true then min (c.toNat + 1) 3 else c.toNat - 1 := by
  revert predicted actual c; decide

/-- While Fetch is stopped the step that retires the head does nothing else but what Execute does. -/
theorem step_of_retired_stopped {s : State} (hm : FullMemory s) (ha : Active s) (hf : fetchActs s = false) {c : CommitClass}
    {b : RobEntry} (hcm : commit s = .ok (.retired c b)) : ∃ ex, step s = .next (committed s ex (.retired c b)) := by
  obtain ⟨ex, hex⟩ := execute_full hm
  exact ⟨ex, by rw [step_of_not_fetchActs ha hf, activeCycle, hex, hcm]; rfl⟩

/-! ### The head (R290, R291, R307) -/

/-- Without a flush, the head of the window is where Commit leaves it. -/
theorem step_robHead {s t : State} (ha : Active s) (hmis : ¬ Mispredicts s) (h : step s = .next t) :
    (t.robHead = s.robHead ∨ HeadReady s ∧ t.robHead = s.robHead + 1) ∧
      (HeadReady s → (head s).halt = true ∨ (head s).op ≠ .invalid → t.robHead = s.robHead + 1) := by
  obtain ⟨ex, cm, hcm, hne, hover⟩ := step_issuedOver ha h hmis
  rw [hover.robHead]
  refine ⟨?_, fun hready hop => ?_⟩
  · obtain ⟨hhead, -⟩ | ⟨hready, hhead, -⟩ := committed_window ex hcm
    · exact .inl hhead
    · exact .inr ⟨hready, hhead⟩
  · rw [commit_of_headReady hcm hne hready hop]
    simp [applyCommit]

/-- A step of an active state in which the head mispredicts is the flush. -/
theorem step_of_mispredicts {s t : State} (ha : Active s) (hmis : Mispredicts s) (h : step s = .next t) : t = flushState s (head s) := by
  rcases step_active ha h with ⟨-, ht⟩ | ⟨_, cm, -, hcm, hne, -⟩
  · exact ht
  · obtain ⟨b, hb⟩ := (commit_mispredicted_iff s).2 hmis
    exact absurd (Except.ok.inj (hcm.symm.trans hb)) (hne b)

end Sys2Proof.Machine

namespace Sys2Proof.Proofs

open Sys2Proof.Machine Sys2Proof.Safety

/-- Settles O21: what differs after a cycle is what the retiring head wrote. -/
theorem onlyCommitWritesArchitecturalState : Obligations.OnlyCommitWritesArchitecturalState := by
  intro s t hwf h
  cases headWrites_of_moves h with
  | nothing regs mem => exact ⟨fun r hr => absurd (readReg_of_regs regs r) hr, fun a ha => absurd (by rw [mem]) ha⟩
  | register ready writes hhalt regs mem =>
    refine ⟨fun r hr => ?_, fun a ha => absurd (by rw [mem]) ha⟩
    obtain ⟨hrd, hvalue⟩ := readReg_ne_of_put regs hr
    exact ⟨ready, writes, hhalt, hrd, hvalue⟩
  | store ready isStore regs mem =>
    refine ⟨fun r hr => absurd (readReg_of_regs regs r) hr, fun a ha => ⟨ready, isStore, ?_⟩⟩
    have hin : inAccess (head s).addr (head s).op.width a = true := by
      rw [← Bool.not_eq_false]
      exact fun hout => ha (by rw [mem, memByte_memWrite_outside hwf _ _ _ _ hout])
    obtain ⟨k, hk, rfl⟩ := (inAccess_iff _ _ _).1 hin
    exact ⟨k, hk, rfl, by rw [mem, memByte_memWrite_inside hwf _ _ _ hk]⟩

/-- Settles O22: the head writes one register or one access, by its class. -/
theorem oneMutationPerCycle : Obligations.OneMutationPerCycle := by
  intro s t hwf h
  obtain ⟨hreg, hbyte⟩ := onlyCommitWritesArchitecturalState s t hwf h
  refine ⟨fun r q hr hq => ?_, fun a ha => ?_, fun ⟨r, hr⟩ a => ?_⟩
  · obtain ⟨-, -, -, hrd, -⟩ := hreg r hr
    obtain ⟨-, -, -, hrd', -⟩ := hreg q hq
    exact hrd.symm.trans hrd'
  · obtain ⟨-, -, k, hk, rfl, -⟩ := hbyte a ha
    exact (inAccess_iff _ _ _).2 ⟨k, hk, rfl⟩
  · by_contra ha
    obtain ⟨-, hwrites, -⟩ := hreg r hr
    obtain ⟨-, hstore, -⟩ := hbyte a ha
    simp [Op.writesReg, hstore] at hwrites

/-- Settles O23: with no ready head Commit answers that it is idle, and the issue writes none of these fields. -/
theorem busyHeadHoldsCommit : Obligations.BusyHeadHoldsCommit := by
  intro s t ha hready h
  have hmis : ¬ Mispredicts s := fun hmis => hready hmis.1
  obtain ⟨hregs, hmem⟩ := step_frame_of_not_headReady ha hready h
  obtain ⟨ex, cm, hcm, -, hover⟩ := step_issuedOver ha h hmis
  cases (commit_of_not_headReady hready).symm.trans hcm
  obtain ⟨hhalted, -⟩ := onlyTwoEventsEndRun s t ha h
  exact ⟨readReg_of_regs hregs, fun a => by rw [hmem], by simp [hover.predCtr, applyCommit], by simp [hover.robHead, applyCommit],
    by simp [← Bool.not_eq_true, hhalted, hready], step_flush_of_not_mispredicts ha hmis h⟩

/-- Settles O26: with Fetch blocked nothing is issued beside the retirement of the JALR. -/
theorem jumpRegisterCommit : Obligations.JumpRegisterCommit := by
  intro s hm ha hblock hready hmark hop
  have hclass : (head s).commitClass = .jumpRegister := (RobEntry.commitClass_eq_jumpRegister_iff _).2 ⟨hmark, hop⟩
  have hmis : ¬ Mispredicts s := fun ⟨_, hbranch, _⟩ => by
    simp [(RobEntry.commitClass_eq_branch_iff _).2 hbranch] at hclass
  have hf : fetchActs s = false := by simp [fetchActs, hblock]
  have hcm : commit s = .ok (.retired .jumpRegister (head s)) := by
    obtain ⟨cm, hcm⟩ := commit_full hm
    rw [hcm, commit_of_headReady hcm (ne_mispredicted hcm hmis) hready (.inr (by simp [hop])), hclass]
  have hnone : ¬ ∃ w, IssuesWord s w := fun ⟨_, hacts, _⟩ => by simp [hf] at hacts
  have hnoclaim : ∀ r, ¬ Claims s r := fun _ ⟨_, w, hw, _⟩ => hnone ⟨w, hw⟩
  obtain ⟨ex, hstep⟩ := step_of_retired_stopped hm ha hf hcm
  obtain ⟨-, hcleared, hkept⟩ := (issuedOver_refl (committed s ex (.retired .jumpRegister (head s))) hnone).aliasesAfterCommit
    (rd := (head s).rd) (by simp [applyCommit, commitEffect_rat])
  refine ⟨_, hstep, by simp [applyCommit, commitEffect_block], by simp [applyCommit, commitEffect_pc],
    readReg_retired ex _ (.inr rfl), fun a => by simp [applyCommit, commitEffect_mem], by simp [applyCommit], by simp [applyCommit],
    fun r => ?_⟩
  split
  next hnames => exact hcleared r (hnoclaim r) hnames
  next hnames => exact hkept r (hnoclaim r) hnames

/-- Settles O27: every cycle in which the head mispredicts ends in the flush state, whatever is handed over. -/
theorem mispredictionFlush : Obligations.MispredictionFlush := by
  intro s hm ha hmis
  have hcycle := activeCycle_of_mispredicts hm hmis
  have hstep : step s = .next (flushState s (head s)) := by
    obtain ⟨t, ht⟩ := step_full hm ha
    rw [ht, step_of_mispredicts ha hmis ht]
  have hwrong : ¬ ((head s).pred = true ∧ actualTaken (head s) = true) := fun ⟨hp, hv⟩ => hmis.2.2 (hv.trans hp.symm)
  have hexec : ∀ i : Instr, exec i s = .next (flushState s (head s)) := fun i => by
    rw [exec_eq_cycle, cycle_of_active ha, hcycle, hcycle, ite_self]
  obtain ⟨⟨hhalted, hfatal⟩, -⟩ := ha
  exact ⟨_, hstep, rfl, rfl, rfl, entryAt_flushState_busy s _, fun r => by simp, rfl, rfl, rfl,
    by rw [flushState_predCtr, updateCtr_toNat, if_neg hwrong], rfl, rfl, hhalted, hfatal, rfl, hexec⟩

/-- Settles O31: a retirement moves the head by one, the flush to 0, and no other write of a cycle is to the head. -/
theorem commitIdsInOrder : Obligations.CommitIdsInOrder := by
  intro s t h
  by_cases ha : Active s
  swap
  · have hkept : t.robHead = s.robHead := by obtain rfl | rfl := step_of_not_active ha h <;> rfl
    exact ⟨.inl hkept, fun ha' => absurd ha' ha, fun ha' => absurd ha' ha, fun _ => hkept⟩
  by_cases hmis : Mispredicts s
  · obtain rfl := step_of_mispredicts ha hmis h
    exact ⟨.inr (.inr ⟨hmis, rfl, rfl⟩), fun _ _ hno => absurd hmis hno, fun _ _ => rfl, fun hno => absurd ⟨ha, hmis.1⟩ hno⟩
  · obtain ⟨hcases, hmoves⟩ := step_robHead ha hmis h
    exact ⟨hcases.imp_right .inl, fun _ hready _ hop => hmoves hready hop, fun _ hmis' => absurd hmis' hmis,
      fun hno => hcases.resolve_right fun hr => hno ⟨ha, hr.1⟩⟩

end Sys2Proof.Proofs
end

section
/-! PROOFS, `49_predictor.md`. The counter is written by the commit of a branch and by nothing else; from a counter below 2 it never rises
(R311, R314, R316). -/

namespace Sys2Proof.Machine

open Safety

/-! ### The writer of the counter (R314) -/

/-- The commit of a branch, predicted right or wrong, applies the table of R314 to the counter. -/
theorem step_predCtr_of_branch {s t : State} (ha : Active s) (h : step s = .next t) (hready : HeadReady s) (hbranch : HeadIsBranch s) :
    t.predCtr = updateCtr (head s).pred (actualTaken (head s)) s.predCtr := by
  by_cases hmis : Mispredicts s
  · rw [step_of_mispredicts ha hmis h, flushState_predCtr]
  · obtain ⟨ex, cm, hcm, hne, hover⟩ := step_issuedOver ha h hmis
    have hclass : (head s).commitClass = .branch := (RobEntry.commitClass_eq_branch_iff _).2 hbranch
    have hop : (head s).op ≠ .invalid := fun hop => by simp [HeadIsBranch, hop, Op.isBranch] at hbranch
    rw [hover.predCtr, commit_of_headReady hcm hne hready (.inr hop), hclass]
    simp [applyCommit, commitEffect_predCtr]

/-- No other step of an active state writes the counter. -/
theorem step_predCtr_of_not_branch {s t : State} (ha : Active s) (h : step s = .next t) (hno : ¬ (HeadReady s ∧ HeadIsBranch s)) :
    t.predCtr = s.predCtr := by
  have hmis : ¬ Mispredicts s := fun ⟨hready, hbranch, _⟩ => hno ⟨hready, hbranch⟩
  obtain ⟨ex, cm, hcm, hne, hover⟩ := step_issuedOver ha h hmis
  rw [hover.predCtr]
  rcases commit_cases hcm with ⟨rfl, -⟩ | ⟨hsize, hbusy, ⟨rfl, -⟩ | ⟨c, rfl, hclass, -⟩⟩
  · simp [applyCommit]
  · exact absurd rfl (hne _)
  · have hc : c ≠ .branch := fun hc => hno ⟨⟨hsize, hbusy⟩, (RobEntry.commitClass_eq_branch_iff _).1 (hclass.trans hc)⟩
    simp [applyCommit, commitEffect_predCtr, hc]

/-! ### The predictions in flight (R154, R316) -/

/-- Every branch in flight is predicted not taken. -/
def PredictsUntaken (s : State) : Prop :=
  ∀ k : RobId, occupied s k = true → (robAt s k).op.isBranch = true → (robAt s k).pred = false

@[simp] theorem robAt_applyExecute_pred (s : State) (ex : ExecResult) (k : RobId) :
    (robAt (applyExecute s ex) k).pred = (robAt s k).pred := by
  cases ex with
  | idle => rfl
  | fatal => rfl
  | fired f => rw [applyExecute, robAt_applyFire]; split <;> rfl

/-- With 32 or more entries in the window every id is in flight. -/
theorem occupied_of_large {s : State} (h : 32 ≤ s.robSize.toNat) (k : RobId) : occupied s k = true :=
  (occupied_iff s k).2 (lt_of_lt_of_le (k - s.robHead).isLt h)

/-- Nothing enters the window by Execute and Commit. -/
theorem occupied_of_committed {s : State} {ex : ExecResult} {cm : CommitResult} (hcm : commit s = .ok cm) {k : RobId}
    (hk : occupied (committed s ex cm) k = true) : occupied s k = true := by
  by_cases hlarge : 32 ≤ s.robSize.toNat
  · exact occupied_of_large hlarge k
  obtain ⟨hhead, hsize⟩ | ⟨⟨h0, -⟩, hhead, hsize⟩ := committed_window ex hcm
  · rwa [occupied_of_same_window hhead hsize] at hk
  · exact ((occupied_retire hhead hsize h0 (by omega) k).1 hk).1

/-- Execute and Commit leave the tail where it is. -/
theorem tail_committed {s : State} (ex : ExecResult) {cm : CommitResult} (hcm : commit s = .ok cm) :
    tail (committed s ex cm) = tail s := by
  obtain ⟨hhead, hsize⟩ | ⟨-, hhead, hsize⟩ := committed_window ex hcm
  · simp only [tail, hhead, hsize]
  · exact tail_retire hhead hsize

/-- Only the tail enters the window by an issue. -/
theorem occupied_of_issued {s : State} {ex : ExecResult} {cm : CommitResult} (hcm : commit s = .ok cm)
    {cdb : Option Cdb} {red : Bool} {p : IssuePlan} {i : Slot} {k : RobId}
    (hk : occupied (applyIssue s (committed s ex cm) cdb red p i) k = true) : occupied s k = true ∨ k = tail s := by
  by_cases hlarge : 32 ≤ s.robSize.toNat
  · exact .inl (occupied_of_large hlarge k)
  have hsmall : (committed s ex cm).robSize.toNat < 32 := by
    obtain ⟨-, hsize⟩ | ⟨⟨h0, -⟩, -, hsize⟩ := committed_window ex hcm
    · rw [hsize]
      omega
    · have := robSize_retire hsize h0
      omega
  obtain hk | hk := (occupied_issue (applyIssue_robHead s _ cdb red p i) (applyIssue_robSize s _ cdb red p i) hsmall k).1 hk
  · exact .inl (occupied_of_committed hcm hk)
  · exact .inr (hk.trans (tail_committed ex hcm))

theorem predictsUntaken_committed {s : State} (hs : PredictsUntaken s) (ex : ExecResult) {cm : CommitResult} (hcm : commit s = .ok cm) :
    PredictsUntaken (committed s ex cm) := by
  intro k hk
  simpa using hs k (occupied_of_committed hcm hk)

/-- A branch issued while the counter predicts not taken is so predicted (R154). -/
theorem issuedRob_wordPlan_pred {s : State} (hctr : predict s.predCtr = false) (w : Word) :
    (issuedRob s (wordPlan s w)).pred = false := by
  unfold wordPlan
  cases decodeWord w with
  | error r => rfl
  | ok i => cases i <;> simp [issuedRob, planOf, branchPlan, upperPlan, pcRelPlan, regImmPlan, regRegPlan, jalPlan, jalrPlan, haltPlan,
      plainPlan, hctr]

/-- A step keeps every prediction in flight at not taken, while the counter is below 2. -/
theorem step_predictsUntaken {s t : State} (hs : PredictsUntaken s) (hctr : predict s.predCtr = false) (ha : Active s)
    (h : step s = .next t) : PredictsUntaken t := by
  rcases step_active ha h with ⟨-, rfl⟩ | ⟨ex, cm, -, hcm, -, ⟨-, rfl⟩ | ⟨w, i, ⟨-, -, hroom, -⟩, -, rfl⟩⟩
  · intro k hk
    simp [not_occupied_of_empty (flushState_robSize s (head s))] at hk
  · exact predictsUntaken_committed hs ex hcm
  · intro k hk hbranch
    by_cases htail : k = tail s
    · rw [htail, robAt_applyIssue_tail]
      exact issuedRob_wordPlan_pred hctr w
    · rw [robAt_applyIssue, if_neg htail] at hbranch ⊢
      simpa using hs k ((occupied_of_issued hcm hk).resolve_right htail) (by simpa using hbranch)

end Sys2Proof.Machine

namespace Sys2Proof.Proofs

open Sys2Proof.Machine Sys2Proof.Safety

/-- Settles O28: the commit of a branch, flushing or not, applies the table; no other step writes the counter. -/
theorem predictorCounterTable : Obligations.PredictorCounterTable := by
  intro s t ha h
  refine ⟨fun hready hbranch => ?_, step_predCtr_of_not_branch ha h⟩
  rw [step_predCtr_of_branch ha h hready hbranch, updateCtr_toNat]
  rfl

/-- Settles O19: a branch that commits was predicted not taken, so the table decrements; one that is issued is predicted not taken. -/
theorem predictorStaysUntaken : Obligations.PredictorStaysUntaken := by
  intro s t hctr hs h
  have hbelow : predict s.predCtr = false := by simpa [predict_eq_decide] using hctr
  by_cases ha : Active s
  · have hle : t.predCtr.toNat ≤ s.predCtr.toNat := by
      by_cases hb : HeadReady s ∧ HeadIsBranch s
      · obtain ⟨hready, hbranch⟩ := hb
        have hpred : (head s).pred = false := hs _ (occupied_head hready.1) hbranch.2
        rw [step_predCtr_of_branch ha h hready hbranch, updateCtr_toNat, if_neg (by simp [hpred])]
        omega
      · rw [step_predCtr_of_not_branch ha h hb]
    refine ⟨hle, ?_, step_predictsUntaken hs hbelow ha h⟩
    rw [predict_eq_decide, decide_eq_false_iff_not]
    omega
  · obtain rfl | rfl := step_of_not_active ha h
    · exact ⟨le_rfl, hbelow, hs⟩
    · exact ⟨le_rfl, hbelow, hs⟩

end Sys2Proof.Proofs
end

section
/-! PROOFS, `70_reset_and_hazards.md`. The reset input, and the canonical form of memory: the loader makes it and every step keeps it
(R80, R350). -/

namespace Sys2Proof.Machine

open Safety

/-- One character of an image writes at most one byte. -/
theorem loadChar_mem_wf {l : Loader} (h : l.mem.wf = true) (c : Char) : (loadChar l c).mem.wf = true := by
  unfold loadChar
  split
  · exact h
  split
  · exact h
  split
  · exact h
  split
  · exact h
  · exact putByte_wf h _ _

theorem foldl_loadChar_mem_wf (text : List Char) {l : Loader} (h : l.mem.wf = true) : (text.foldl loadChar l).mem.wf = true := by
  induction text generalizing l with
  | nil => exact h
  | cons c text ih => exact ih (loadChar_mem_wf h c)

end Sys2Proof.Machine

namespace Sys2Proof.Proofs

open Sys2Proof.Machine Sys2Proof.Safety

/-- Settles O14: the reset input gives the reset state of the same block on the memory as it is. -/
theorem resetInputRestoresState : Obligations.ResetInputRestoresState := by
  intro s
  obtain ⟨hregs, hpc, hrat, hstations, hhead, hsize, hctr, hflags⟩ := resetValues.1 s.params s.mem
  obtain ⟨hflush, hblock, hdrain, hhalted, hfatal, hmem⟩ := hflags
  exact ⟨fun a => congrArg (memByte · a) hmem, hregs, hpc, hhead, hsize, hstations, hrat, hctr, hflush, hblock, hdrain, hhalted,
    hfatal⟩

/-- Settles O17: memory is written by `MemWrite` alone. -/
theorem stepKeepsMemoryCanonical : Obligations.StepKeepsMemoryCanonical := by
  intro s t hwf h
  cases headWrites_of_moves (.inl h) with
  | nothing _ mem => rwa [mem]
  | register _ _ _ _ mem => rwa [mem]
  | store _ _ _ mem => rw [mem]; exact memWrite_wf hwf _ _ _

/-- Settles O20: the loader starts on the empty memory, and each character keeps the form. -/
theorem loadedImageIsCanonical : Obligations.LoadedImageIsCanonical := fun text => foldl_loadChar_mem_wf text rfl

end Sys2Proof.Proofs
end

section
/-! PROOFS, `47_ops_branch_jump.md`. The retirement of a ready head in the terms of the architectural state, and the branches and jumps
alone in the pipeline, from their fetch to their commit (R269 to R277, R367). -/

namespace Sys2Proof.Machine

open Safety

/-! ### The step in which a ready head retires (R291 to R299) -/

/-- The registers and memory after a step in which the head is ready are as its class leaves them, whatever fires or is issued beside it. -/
theorem step_arch_of_headReady {s t : State} (ha : Active s) (hready : HeadReady s)
    (hop : (head s).halt = true ∨ (head s).op ≠ .invalid) (h : step s = .next t) :
    t.regs = (commitEffect s s.robHead (head s).commitClass (head s)).regs ∧
      t.mem = (commitEffect s s.robHead (head s).commitClass (head s)).mem := by
  by_cases hmis : Mispredicts s
  · have hclass : (head s).commitClass = .branch := (RobEntry.commitClass_eq_branch_iff _).2 hmis.2.1
    rw [step_of_mispredicts ha hmis h, hclass]
    exact ⟨rfl, rfl⟩
  · obtain ⟨ex, cm, hcm, hne, hover⟩ := step_issuedOver ha h hmis
    rw [hover.regs, hover.mem, commit_of_headReady hcm hne hready hop]
    simp [applyCommit, commitEffect_regs, commitEffect_mem]

theorem step_not_halted {s t : State} (ha : Active s) (hclass : (head s).commitClass ≠ .halt) (h : step s = .next t) :
    t.halted = false := by
  obtain ⟨hiff, -⟩ := Proofs.onlyTwoEventsEndRun s t ha h
  rw [← Bool.not_eq_true, hiff, ← RobEntry.commitClass_eq_halt_iff]
  exact fun hhalt => hclass hhalt.2

/-! ### The instruction that is alone in the pipeline, when its head is complete (R177, R367) -/

section
variable {s : State} (hd : Drained s) (hm : FullMemory s) (i : Instr) {t : State} {v : Word} {ta : Option Word}
  (hfired : HeadFired (issuedAlone i s) t v ta)
include hd hfired

theorem head_of_fired : head t =
    { issuedRob s (planOf i s) with busy := false, value := v, addr := ta.getD (issuedRob s (planOf i s)).addr } := by
  rw [hfired.head_eq, head_issuedAlone hd i]

theorem commitClass_of_fired : (head t).commitClass = (recordOf i).op.commitClass := by
  rw [head_of_fired hd i hfired, ← commitClass_issuedRob i s]
  rfl

theorem op_of_fired : (head t).op = (recordOf i).op := by
  rw [head_of_fired hd i hfired, ← planOf_op i s]
  rfl

theorem rd_of_fired : (head t).rd = (recordOf i).rd := by
  rw [head_of_fired hd i hfired, ← planOf_rd i s]
  rfl

theorem value_of_fired : (head t).value = v := by rw [head_of_fired hd i hfired]

omit hd in
theorem readReg_of_fired (r : Reg) : readReg t r = readReg s r := readReg_of_regs hfired.regs r

omit hd in
theorem mem_of_fired : t.mem = s.mem := hfired.mem

omit hd in
include hm in
theorem fullMemory_of_fired : FullMemory t := by rw [FullMemory, hfired.params]; exact hm

end

/-! ### A branch, alone in the pipeline (R269, R294, R314) -/

/-- The step in which a ready branch commits: no register and no byte changes; the prediction and bit 0 of the value decide the counter and
whether the pipeline is flushed. -/
theorem step_of_branch_head {s : State} (hm : FullMemory s) (ha : Active s) (hready : HeadReady s) (hbranch : HeadIsBranch s) :
    ∃ t, step s = .next t ∧ (∀ r : Reg, readReg t r = readReg s r) ∧ t.mem = s.mem ∧
      t.predCtr.toNat =
        (if (head s).pred = true ∧ (head s).value.getLsbD 0 = true then min (s.predCtr.toNat + 1) 3 else s.predCtr.toNat - 1) ∧
      ((head s).value.getLsbD 0 = (head s).pred → t.flush = false) ∧
      ((head s).value.getLsbD 0 ≠ (head s).pred → t.pc = (head s).addr ∧ t.flush = true ∧ t.robSize = 0) ∧
      t.halted = false ∧ t.params = s.params := by
  have hclass : (head s).commitClass = .branch := (RobEntry.commitClass_eq_branch_iff _).2 hbranch
  obtain ⟨t, hstep⟩ := step_full hm ha
  have hop : (head s).op ≠ .invalid := fun hop => by simp [HeadIsBranch, hop, Op.isBranch] at hbranch
  obtain ⟨hregs, hmem⟩ := step_arch_of_headReady ha hready (.inr hop) hstep
  rw [hclass] at hregs hmem
  obtain ⟨htable, -⟩ := Proofs.predictorCounterTable s t ha hstep
  refine ⟨t, hstep, readReg_of_regs hregs, hmem, htable hready hbranch, fun hright => ?_, fun hwrong => ?_,
    step_not_halted ha (by rw [hclass]; simp) hstep, step_params ha hstep⟩
  · exact step_flush_of_not_mispredicts ha (fun hmis => hmis.2.2 hright) hstep
  · rw [step_of_mispredicts ha ⟨hready, hbranch, hwrong⟩ hstep]
    exact ⟨rfl, rfl, rfl⟩

section
variable {s : State} (hd : Drained s) (hm : FullMemory s) {i : Instr} (hbranch : (recordOf i).op.isBranch = true)
include hd hbranch

/-- The head of a branch that has fired holds the prediction made at issue and the path not taken (R154). -/
theorem head_of_fired_branch {t : State} {v : Word} (hfired : HeadFired (issuedAlone i s) t v none) :
    HeadIsBranch t ∧ (head t).pred = predict s.predCtr ∧ (head t).value = v ∧
      (head t).addr = if predict s.predCtr then s.pc + 4 else s.pc + (recordOf i).imm := by
  have hhead := head_of_fired hd i hfired
  refine ⟨⟨?_, op_of_fired hd i hfired ▸ hbranch⟩, ?_, value_of_fired hd i hfired, ?_⟩
  all_goals rw [hhead, planOf_branch s hbranch]; rfl

include hm
/-- A branch whose entry computes `v` branches on bit 0 of `v` (R294). -/
theorem branches_of_fires {v : Word} {c : Prop}
    (hfire : fireEntry (issuedAlone i s) (issuedEntry s none (planOf i s)) = .ok (.result v none)) (hc : v.getLsbD 0 = true ↔ c) :
    Branches i s c (recordOf i).imm := by
  obtain ⟨t2, hstep1, hfired⟩ := step_issuedAlone hd i hm hfire
  obtain ⟨hheadBranch, hpred, hvalue, haddr⟩ := head_of_fired_branch hd hbranch hfired
  obtain ⟨t3, hstep2, hregs, hmem, hctr, hright, hwrong, hhalted, hparams⟩ :=
    step_of_branch_head (fullMemory_of_fired hm i hfired) hfired.active hfired.ready hheadBranch
  rw [hpred, hvalue, hfired.predCtr] at hctr
  rw [hpred, hvalue] at hright
  rw [hpred, hvalue, haddr] at hwrong
  have hhighPredicts : 2 ≤ s.predCtr.toNat → predict s.predCtr = true := fun h => by rw [predict_eq_decide, decide_eq_true h]
  have hlowPredicts : s.predCtr.toNat < 2 → predict s.predCtr = false := fun h => by
    rw [predict_eq_decide, decide_eq_false (Nat.not_le.2 h)]
  have hnext : (issuedAlone i s).pc = if s.predCtr.toNat < 2 then s.pc + 4 else s.pc + (recordOf i).imm := by
    rw [issuedAlone, planOf_branch s hbranch]
    split
    next h => rw [hlowPredicts h]; rfl
    next h => rw [hhighPredicts (Nat.not_lt.1 h)]; rfl
  obtain ⟨⟨-, hfatal⟩, -⟩ := hfired.active
  refine ⟨issuedAlone i s, t2, t3, ⟨exec_of_drained i hd hm, hstep1, hstep2⟩, hnext, ?taken, ?untaken, ?missedTaken, ?missedUntaken,
    fun r => (hregs r).trans (readReg_of_fired i hfired r), fun a => by rw [hmem, mem_of_fired i hfired], hhalted, hfatal,
    hparams.trans hfired.params⟩
  case taken =>
    rintro ⟨htaken, hhigh⟩
    rw [hc.2 htaken, hhighPredicts hhigh] at hctr hright
    exact ⟨hright rfl, hctr.trans (if_pos ⟨rfl, rfl⟩)⟩
  case untaken =>
    rintro ⟨huntaken, hlow⟩
    rw [Bool.eq_false_iff.2 (mt hc.1 huntaken), hlowPredicts hlow] at hctr hright
    exact ⟨hright rfl, hctr.trans (if_neg (by decide))⟩
  case missedTaken =>
    rintro ⟨htaken, hlow⟩
    rw [hc.2 htaken, hlowPredicts hlow] at hctr hwrong
    obtain ⟨hpc, hflush, hsize⟩ := hwrong (by decide)
    exact ⟨hpc, hflush, hsize, hctr.trans (if_neg (by decide))⟩
  case missedUntaken =>
    rintro ⟨huntaken, hhigh⟩
    rw [Bool.eq_false_iff.2 (mt hc.1 huntaken), hhighPredicts hhigh] at hctr hwrong
    obtain ⟨hpc, hflush, hsize⟩ := hwrong (by decide)
    exact ⟨hpc, hflush, hsize, hctr.trans (if_neg (by decide))⟩

end

theorem signedLess_iff (a b : Word) : signedLess a b = true ↔ a.toInt < b.toInt := decide_eq_true_iff

theorem unsignedLess_iff (a b : Word) : unsignedLess a b = true ↔ a.toNat < b.toNat := decide_eq_true_iff

theorem not_signedLess_iff (a b : Word) : (!signedLess a b) = true ↔ b.toInt ≤ a.toInt := by
  rw [Bool.not_eq_true', ← Bool.not_eq_true, signedLess_iff, Int.not_lt]

theorem not_unsignedLess_iff (a b : Word) : (!unsignedLess a b) = true ↔ b.toNat ≤ a.toNat := by
  rw [Bool.not_eq_true', ← Bool.not_eq_true, unsignedLess_iff, Nat.not_lt]

theorem getLsbD_boolWord (b : Bool) : (boolWord b).getLsbD 0 = b := by cases b <;> rfl

/-- A branch compares the two registers as they are when it is fetched (R269). -/
theorem branches_of_compare {s : State} (hd : Drained s) (hm : FullMemory s) {i : Instr} (hbranch : (recordOf i).op.isBranch = true)
    {b : Bool} {c : Prop} (halu : alu (recordOf i).op (readReg s (recordOf i).rs1) (readReg s (recordOf i).rs2) (recordOf i).imm =
      some (boolWord b)) (hc : b = true ↔ c) : Branches i s c (recordOf i).imm := by
  have hplan := planOf_branch s hbranch
  have hvj : (issuedEntry s none (planOf i s)).vj = readReg s (recordOf i).rs1 := issuedEntry_vj_of_drained hd none (by rw [hplan]; rfl)
  have hvk : (issuedEntry s none (planOf i s)).vk = readReg s (recordOf i).rs2 := issuedEntry_vk_of_drained hd none (by rw [hplan]; rfl)
  rw [← hvj, ← hvk, ← planOf_op i s, ← planOf_imm i s] at halu
  exact branches_of_fires hd hm hbranch (fireEntry_of_alu _ halu) (by rw [getLsbD_boolWord, hc])

/-! ### JALR, alone in the pipeline (R277, R293) -/

/-- A JALR at the head is the only instruction in flight, and Fetch is blocked (R34, R277). -/
theorem jalr_alone {s : State} (hc : Consistent s) (h0 : s.robSize ≠ 0) (hop : (head s).op = .jalr) :
    s.robSize = 1 ∧ s.block = true := by
  obtain ⟨hblock, hyoungest⟩ := hc.jalr_youngest _ (occupied_head h0) hop
  exact ⟨robSize_eq_one_of_head_youngest h0 hc.size_le hyoungest, hblock⟩

/-- From its fetch to its commit a JALR keeps Fetch blocked, and its commit writes the link and the target. -/
theorem jalr_of_drained {s : State} (hd : Drained s) (hm : FullMemory s) (rd rs1 : Reg) (imm : Word) :
    ∃ t1 t2 t3, ThreeCycles (.jalr rd rs1 imm) s t1 t2 t3 ∧ t1.pc = s.pc + 4 ∧ t1.block = true ∧ t2.block = true ∧
      t3.block = false ∧ t3.pc = (readReg s rs1 + imm) &&& 0xFFFFFFFE ∧ t3.robSize = 0 ∧
      (∀ r : Reg, readReg t3 r = if r = rd ∧ r ≠ 0 then s.pc + 4 else readReg s r) ∧ (∀ r : Reg, readReg t2 r = readReg s r) ∧
      (∀ a : Word, memByte t3.mem a = memByte s.mem a) ∧
      t3.predCtr = s.predCtr ∧ t3.flush = false ∧ t3.halted = false ∧ t2.fatal = false ∧ t3.params = s.params := by
  have hvj := issuedEntry_vj_of_drained hd none (p := planOf (.jalr rd rs1 imm) s) (r := rs1) rfl
  have hfire : fireEntry (issuedAlone (.jalr rd rs1 imm) s) (issuedEntry s none (planOf (.jalr rd rs1 imm) s)) =
      .ok (.result (s.pc + 4) (some ((readReg s rs1 + imm) &&& 0xFFFFFFFE))) := by
    rw [← hvj]; rfl
  obtain ⟨t2, hstep1, hfired⟩ := step_issuedAlone hd _ hm hfire
  have hm2 := fullMemory_of_fired hm _ hfired
  have ha := hfired.active
  have hready := hfired.ready
  have hop : (head t2).op = .jalr := op_of_fired hd _ hfired
  have hclass : (head t2).commitClass = .jumpRegister := commitClass_of_fired hd _ hfired
  obtain ⟨hmark, -⟩ := (RobEntry.commitClass_eq_jumpRegister_iff _).1 hclass
  have hc2 : Consistent t2 := (issuedAlone_consistent hd _ hm).step_active hd.active hstep1
  obtain ⟨hsize, hblock⟩ := jalr_alone hc2 hready.1 hop
  obtain ⟨t3, hstep2, hblock3, hpc3, hregs3, hmem3, -, hsize3, -⟩ := Proofs.jumpRegisterCommit t2 hm2 ha hblock hready hmark hop
  have hnotBranch : ¬ HeadIsBranch t2 := fun hb => by simp [(RobEntry.commitClass_eq_branch_iff _).2 hb] at hclass
  rw [value_of_fired hd _ hfired, rd_of_fired hd _ hfired] at hregs3
  rw [head_of_fired hd _ hfired] at hpc3
  refine ⟨issuedAlone _ s, t2, t3, ⟨exec_of_drained _ hd hm, hstep1, hstep2⟩, rfl, ?_, hblock, hblock3, hpc3,
    by rw [hsize3, hsize]; rfl, fun r => by rw [hregs3, readReg_of_fired _ hfired]; rfl, readReg_of_fired _ hfired,
    fun a => by rw [hmem3, mem_of_fired _ hfired],
    (step_predCtr_of_not_branch ha hstep2 fun h => hnotBranch h.2).trans hfired.predCtr,
    step_flush_of_not_mispredicts ha (fun hmis => hnotBranch hmis.2.1) hstep2, step_not_halted ha (by rw [hclass]; simp) hstep2, ha.1.2,
    (step_params ha hstep2).trans hfired.params⟩
  simp [planOf_op, recordOf]

end Sys2Proof.Machine

namespace Sys2Proof.Proofs

open Sys2Proof.Machine Sys2Proof.Safety

/-- Settles O51: each branch computes its comparison into bit 0, which its commit compares with the prediction made at issue. -/
theorem branchesComplete : Obligations.BranchesComplete := by
  intro s hd hm rs1 rs2 imm
  refine ⟨?beq, ?bne, ?blt, ?bge, ?bltu, ?bgeu⟩
  case beq => exact branches_of_compare hd hm (i := .beq rs1 rs2 imm) rfl rfl beq_iff_eq
  case bne => exact branches_of_compare hd hm (i := .bne rs1 rs2 imm) rfl rfl bne_iff_ne
  case blt => exact branches_of_compare hd hm (i := .blt rs1 rs2 imm) rfl rfl (signedLess_iff ..)
  case bge => exact branches_of_compare hd hm (i := .bge rs1 rs2 imm) rfl rfl (not_signedLess_iff ..)
  case bltu => exact branches_of_compare hd hm (i := .bltu rs1 rs2 imm) rfl rfl (unsignedLess_iff ..)
  case bgeu => exact branches_of_compare hd hm (i := .bgeu rs1 rs2 imm) rfl rfl (not_unsignedLess_iff ..)

/-- Settles O52: JAL retires as a register-writing operation; its link is what its ALU row computes. -/
theorem jumpAndLinkCompletes : Obligations.JumpAndLinkCompletes :=
  fun _ hd hm rd imm => writesRegister_of_fires hd (.jal rd imm) hm rfl rfl

/-- Settles O53: the three cycles of a JALR show both its register write and the block of Fetch. -/
theorem jumpRegisterCompletes : Obligations.JumpRegisterCompletes := by
  intro s hd hm rd rs1 imm
  obtain ⟨t1, t2, t3, hcycles, hpc1, hb1, hb2, hb3, hpc3, hsize, hregs, hregs2, hrest⟩ := jalr_of_drained hd hm rd rs1 imm
  exact ⟨⟨t1, t2, t3, hcycles, hpc1, hregs, hregs2, hrest⟩, ⟨t1, t2, t3, hcycles, hb1, hb2, hb3, hpc3, hsize⟩⟩

end Sys2Proof.Proofs
end

section
/-! PROOFS, `70_reset_and_hazards.md`. What the entry of an instruction computes when its operands and memory are those of `Seq`, and that
the instruction's effect in `Seq` is the retirement of what was computed; so the block refines `Seq` on an instruction that is alone in the
pipeline (R176, R292, R305, R306, R367). -/

namespace Sys2Proof.Machine

open Safety

/-! ### What an entry computes, as a function of memory and its own fields (R176) -/

/-- What entry `e` computes when memory is `m` (R176). -/
def computed (m : Mem) (e : StationEntry) : Computed :=
  if e.op.isLoad then .result (loadExtend e.op (memRead m (effectiveAddress e) e.op.width)) none
  else if e.op.isStore then fireStore e
  else if e.op = .jalr then fireJalr e
  else Computed.ofAlu (alu e.op e.vj e.vk e.imm)

/-- With the whole address space as memory a fire is never refused, and reads nothing of the state but memory. -/
theorem fireEntry_eq_computed {s : State} (hm : FullMemory s) (e : StationEntry) : fireEntry s e = .ok (computed s.mem e) := by
  unfold computed
  split_ifs with hload hstore hjalr
  · exact fireEntry_load_full hm hload
  · exact fireEntry_of_isStore s hstore
  · rw [fireEntry, hjalr]
  · unfold fireEntry
    cases hop : e.op
    case lb | lh | lw | lbu | lhu => simp [hop, Op.isLoad] at hload
    case sb | sh | sw => simp [hop, Op.isStore] at hstore
    case jalr => exact absurd hop hjalr
    all_goals rfl

/-- Only a load reads memory. -/
theorem computed_of_not_isLoad {e : StationEntry} (h : e.op.isLoad = false) (m m' : Mem) : computed m e = computed m' e := by
  simp [computed, h]

/-- An entry computes from its operation, its operands and its immediate. -/
theorem computed_congr (m : Mem) {e e' : StationEntry} (hop : e.op = e'.op) (hvj : e.vj = e'.vj) (hvk : e.vk = e'.vk)
    (himm : e.imm = e'.imm) : computed m e = computed m e' := by
  simp only [computed, effectiveAddress, fireStore, fireJalr, hop, hvj, hvk, himm]

/-! ### The same in a state of `Seq` -/

/-- The value that an operand column of the table of R149 asks for. -/
def Arch.operand (a : Arch) : Source → Word
  | .known v => v
  | .reg r => a.get r

/-- The entry of `i` when both its operands are those of `a`. -/
def seqEntry (i : Instr) (a : Arch) : StationEntry :=
  { busy := true
    op := (recordOf i).op
    vj := a.operand (operandColumns (recordOf i) a.pc).1
    qj := none
    vk := a.operand (operandColumns (recordOf i) a.pc).2
    qk := none
    imm := (recordOf i).imm
    dest := 0 }

def Computed.value : Computed → Word
  | .result v _ => v
  | .unrecognised => 0

def Computed.taddr : Computed → Option Word
  | .result _ t => t
  | .unrecognised => none

/-- The value that `i` computes in `a`. -/
def seqValue (i : Instr) (a : Arch) : Word := (computed a.mem (seqEntry i a)).value

/-- The `taddr` that `i` computes in `a`: the address of a store or the target of a JALR. -/
def seqTaddr (i : Instr) (a : Arch) : Option Word := (computed a.mem (seqEntry i a)).taddr

theorem computed_seqEntry (i : Instr) (a : Arch) : computed a.mem (seqEntry i a) = .result (seqValue i a) (seqTaddr i a) := by
  cases i <;> rfl

theorem seqTaddr_of_isStore {i : Instr} (a : Arch) (h : (recordOf i).op.isStore = true) :
    seqTaddr i a = some (effectiveAddress (seqEntry i a)) := by
  cases i
  case sb | sh | sw => rfl
  all_goals exact Bool.noConfusion h

theorem seqTaddr_of_isBranch {i : Instr} (a : Arch) (h : (recordOf i).op.isBranch = true) : seqTaddr i a = none := by
  cases i
  case beq | bne | blt | bge | bltu | bgeu => rfl
  all_goals exact Bool.noConfusion h

/-! ### The effect of an instruction in `Seq` is the retirement of what it computes (R292, R306) -/

theorem sle_eq_not_signedLess (a b : Word) : a.sle b = !signedLess b a := by
  rw [Bool.eq_iff_iff, not_signedLess_iff]
  simp [BitVec.sle]

theorem ule_eq_not_unsignedLess (a b : Word) : a.ule b = !unsignedLess b a := by
  rw [Bool.eq_iff_iff, not_unsignedLess_iff]
  simp [BitVec.ule]

theorem zext8_memRead_byte (m : Mem) (a : Word) : zext8 (memRead m a .byte) = memRead m a .byte := by
  rw [zext8_memRead, memRead]

theorem zext16_memRead_half (m : Mem) (a : Word) : zext16 (memRead m a .half) = memRead m a .half := by
  rw [zext16_memRead, memRead]

/-- The registers after an instruction that puts its value into `rd`. -/
theorem seqExec_x_of_put {i : Instr} {a : Arch} {v t : Word}
    (hclass : (recordOf i).op.commitClass = .register ∨ (recordOf i).op.commitClass = .jumpRegister)
    (hput : seqExec i a = a.put (recordOf i).rd v t) (hv : seqValue i a = v) : (seqExec i a).x =
    if ((recordOf i).op.commitClass = .register ∨ (recordOf i).op.commitClass = .jumpRegister) ∧ (recordOf i).rd ≠ 0 then
      Bank.put a.x (recordOf i).rd (seqValue i a)
    else a.x := by
  by_cases hrd : (recordOf i).rd = 0 <;> simp [hput, hv, Arch.put, hclass, hrd]

/-- A register-writing operation or a JALR writes its value into `rd`, and nothing else writes a register (R293, R299). -/
theorem seqExec_x (i : Instr) (a : Arch) : (seqExec i a).x =
    if ((recordOf i).op.commitClass = .register ∨ (recordOf i).op.commitClass = .jumpRegister) ∧ (recordOf i).rd ≠ 0 then
      Bank.put a.x (recordOf i).rd (seqValue i a)
    else a.x := by
  cases i
  case halt | beq | bne | blt | bge | bltu | bgeu | sb | sh | sw => rfl
  case jalr => exact seqExec_x_of_put (.inr rfl) rfl rfl
  case lbu => exact seqExec_x_of_put (.inl rfl) rfl (zext8_memRead_byte ..)
  case lhu => exact seqExec_x_of_put (.inl rfl) rfl (zext16_memRead_half ..)
  case slli _ rs1 shamt => exact seqExec_x_of_put (.inl rfl) rfl (congrArg (a.get rs1 <<< ·) (shiftAmount_setWidth shamt))
  case srli _ rs1 shamt => exact seqExec_x_of_put (.inl rfl) rfl (congrArg (a.get rs1 >>> ·) (shiftAmount_setWidth shamt))
  case srai _ rs1 shamt => exact seqExec_x_of_put (.inl rfl) rfl (congrArg (a.get rs1).sshiftRight (shiftAmount_setWidth shamt))
  case sll => exact seqExec_x_of_put (.inl rfl) rfl (aluSll_eq ..)
  case srl => exact seqExec_x_of_put (.inl rfl) rfl (aluSrl_eq ..)
  case sra => exact seqExec_x_of_put (.inl rfl) rfl (aluSra_eq ..)
  all_goals exact seqExec_x_of_put (.inl rfl) rfl rfl

/-- A store writes its value at its address, and nothing else writes memory (R298). -/
theorem seqExec_mem (i : Instr) (a : Arch) : (seqExec i a).mem =
    if (recordOf i).op.isStore = true then
      memWrite a.mem (effectiveAddress (seqEntry i a)) (recordOf i).op.width (seqValue i a)
    else a.mem := by
  cases i <;> rfl

/-- A branch computes the comparison that `Seq` makes. -/
theorem seqExec_pc_of_compare {i : Instr} {a : Arch} {b : Bool} {c : Prop} [Decidable c] {x y : Word}
    (hpc : (seqExec i a).pc = if c then x else y) (hv : seqValue i a = boolWord b) (hc : b = true ↔ c) :
    (seqExec i a).pc = if (seqValue i a).getLsbD 0 then x else y := by
  rw [hpc, hv, getLsbD_boolWord]
  exact if_congr hc.symm rfl rfl

/-- A branch goes where bit 0 of its value says (R269, R294). -/
theorem seqExec_pc_of_branch {i : Instr} (a : Arch) (h : (recordOf i).op.isBranch = true) :
    (seqExec i a).pc = if (seqValue i a).getLsbD 0 then a.pc + (recordOf i).imm else a.pc + 4 := by
  cases i
  case beq => exact seqExec_pc_of_compare rfl rfl beq_iff_eq
  case bne => exact seqExec_pc_of_compare rfl rfl bne_iff_ne
  case blt => exact seqExec_pc_of_compare rfl rfl Iff.rfl
  case bge => exact seqExec_pc_of_compare rfl rfl (Bool.eq_iff_iff.1 (sle_eq_not_signedLess ..).symm)
  case bltu => exact seqExec_pc_of_compare rfl rfl Iff.rfl
  case bgeu => exact seqExec_pc_of_compare rfl rfl (Bool.eq_iff_iff.1 (ule_eq_not_unsignedLess ..).symm)
  all_goals exact Bool.noConfusion h

theorem seqTaddr_of_jalr {i : Instr} (a : Arch) (h : (recordOf i).op = .jalr) : seqTaddr i a = some (seqExec i a).pc := by
  cases i
  case jalr => rfl
  all_goals simp [recordOf] at h

/-- The sequence goes on after every instruction that is no branch, no JALR and no sentinel (R157). -/
theorem seqExec_pc_of_not_branch {i : Instr} (a : Arch) (hbranch : (recordOf i).op.isBranch = false) (hjalr : (recordOf i).op ≠ .jalr)
    (hhalt : i ≠ .halt) : (seqExec i a).pc = if (recordOf i).op = .jal then a.pc + (recordOf i).imm else a.pc + 4 := by
  cases i
  case beq | bne | blt | bge | bltu | bgeu => exact Bool.noConfusion hbranch
  case jalr => exact absurd rfl hjalr
  case halt => exact absurd rfl hhalt
  all_goals rfl

/-! ### A complete ROB entry, and its retirement (R151, R177, R292) -/

/-- The ROB entry `e` is that of `i`, and complete with what `i` computes in `b`. -/
structure Completes (e : RobEntry) (i : Instr) (b : Arch) : Prop where
  commitClass : e.commitClass = (recordOf i).op.commitClass
  op : e.op = (recordOf i).op
  rd : e.rd = (recordOf i).rd
  value : e.value = seqValue i b
  addr : ∀ ta, seqTaddr i b = some ta → e.addr = ta
  other_path : (recordOf i).op.isBranch = true → e.addr = if e.pred then b.pc + 4 else b.pc + (recordOf i).imm

namespace Completes

variable {e : RobEntry} {i : Instr} {b : Arch} (h : Completes e i b)
include h

/-- Its retirement leaves the registers as `Seq` does. -/
theorem regs {n : State} (hx : b.x = n.regs) (k : RobId) : (commitEffect n k e.commitClass e).regs = (seqExec i b).x := by
  rw [commitEffect_regs, h.commitClass, h.rd, h.value, seqExec_x, hx]

/-- Its retirement leaves memory as `Seq` does. -/
theorem mem {n : State} (hmem : b.mem = n.mem) (k : RobId) : (commitEffect n k e.commitClass e).mem = (seqExec i b).mem := by
  simp only [commitEffect_mem, h.commitClass, Op.commitClass_eq_store_iff, seqExec_mem]
  split_ifs with hstore
  · rw [h.addr _ (seqTaddr_of_isStore b hstore), h.op, h.value, hmem]
  · exact hmem.symm

/-- A JALR holds the address at which `Seq` goes on. -/
theorem addr_of_jalr (hop : (recordOf i).op = .jalr) : e.addr = (seqExec i b).pc := h.addr _ (seqTaddr_of_jalr b hop)

/-- A branch whose prediction was wrong holds the address at which `Seq` goes on (R294, R295). -/
theorem addr_of_mispredicted (hbranch : (recordOf i).op.isBranch = true) (hwrong : e.value.getLsbD 0 ≠ e.pred) :
    e.addr = (seqExec i b).pc := by
  rw [h.value] at hwrong
  rw [h.other_path hbranch, seqExec_pc_of_branch b hbranch, Bool.eq_not.2 hwrong]
  cases e.pred <;> rfl

end Completes

/-! ### The prediction and the next pc (R154, R157) -/

/-- Fetch goes on where `Seq` does after an instruction that is no JALR and no sentinel, when a branch is predicted as it turns out. -/
theorem planOf_nextPc_eq_seqExec_pc {i : Instr} {s : State} {b : Arch} (hpc : s.pc = b.pc) (hjalr : (recordOf i).op ≠ .jalr)
    (hhalt : i ≠ .halt) (hright : (recordOf i).op.isBranch = true → predict s.predCtr = (seqValue i b).getLsbD 0) :
    (planOf i s).nextPc = (seqExec i b).pc := by
  cases hbranch : (recordOf i).op.isBranch with
  | true => rw [planOf_branch s hbranch, seqExec_pc_of_branch b hbranch, ← hright hbranch, ← hpc]; rfl
  | false => rw [planOf_nextPc s hbranch, seqExec_pc_of_not_branch b hbranch hjalr hhalt, hpc]

/-- The ROB entry of an issued branch holds the path that is not predicted (R154). -/
theorem issuedRob_other_path {i : Instr} (s : State) (hbranch : (recordOf i).op.isBranch = true) :
    (issuedRob s (planOf i s)).addr = if (issuedRob s (planOf i s)).pred then s.pc + 4 else s.pc + (recordOf i).imm := by
  rw [planOf_branch s hbranch]; rfl

/-! ### The instruction that is alone in the pipeline (R306, R367) -/

section
variable {s : State} (hd : Drained s) (hm : FullMemory s) (i : Instr)
include hd

theorem capture_value_of_drained (cdb : Option Cdb) (free : Word) (src : Source) :
    (capture s cdb free src).value = (archOf s).operand src := by
  cases src with
  | known v => rfl
  | reg r => rw [capture_reg_of_drained hd]; rfl

include hm

/-- Its entry computes what the instruction computes in `Seq`. -/
theorem fireEntry_issuedAlone : fireEntry (issuedAlone i s) (issuedEntry s none (planOf i s)) =
    .ok (.result (seqValue i (archOf s)) (seqTaddr i (archOf s))) := by
  obtain ⟨hj, hk⟩ := capture_planOf i s none
  have hvj : (issuedEntry s none (planOf i s)).vj = (seqEntry i (archOf s)).vj :=
    (congrArg Operand.value (hj _)).trans (capture_value_of_drained hd ..)
  have hvk : (issuedEntry s none (planOf i s)).vk = (seqEntry i (archOf s)).vk :=
    (congrArg Operand.value (hk _)).trans (capture_value_of_drained hd ..)
  rw [fireEntry_eq_computed (s := issuedAlone i s) hm, computed_congr _ (planOf_op i s) hvj hvk (planOf_imm i s)]
  exact congrArg Except.ok (computed_seqEntry i (archOf s))

omit hm in
theorem completes_of_fired {t : State} (hfired : HeadFired (issuedAlone i s) t (seqValue i (archOf s)) (seqTaddr i (archOf s))) :
    Completes (head t) i (archOf s) where
  commitClass := commitClass_of_fired hd i hfired
  op := op_of_fired hd i hfired
  rd := rd_of_fired hd i hfired
  value := value_of_fired hd i hfired
  addr ta hta := by rw [head_of_fired hd i hfired, hta]; rfl
  other_path hbranch := by
    rw [head_of_fired hd i hfired, seqTaddr_of_isBranch _ hbranch]
    exact issuedRob_other_path s hbranch

end

end Sys2Proof.Machine

namespace Sys2Proof.Proofs

open Sys2Proof.Machine Sys2Proof.Safety

/-- Settles O56: the entry computes what `Seq` computes, its retirement writes what `Seq` writes, and the pc is that of `Seq` unless a
JALR or a mispredicted branch has yet to put it there. -/
theorem drainedInstructionRefinesSeq : Obligations.DrainedInstructionRefinesSeq := by
  intro s i hd hm
  obtain ⟨t2, hstep1, hfired⟩ := step_issuedAlone hd i hm (fireEntry_issuedAlone hd hm i)
  have hm2 := fullMemory_of_fired hm i hfired
  have hc2 : Consistent t2 := (issuedAlone_consistent hd i hm).step_active hd.active hstep1
  have ha := hfired.active
  have hready := hfired.ready
  have hhead := completes_of_fired hd i hfired
  obtain ⟨t3, hstep2⟩ := step_full hm2 ha
  obtain ⟨hregs, hmem⟩ := step_arch_of_headReady ha hready (.inr (hhead.op ▸ recordOf_op_ne_invalid i)) hstep2
  rw [hhead.regs (b := archOf s) hfired.regs.symm] at hregs
  rw [hhead.mem (b := archOf s) hfired.mem.symm] at hmem
  have hmispredicts : t3.flush = true → Mispredicts t2 := fun hflush => by
    by_contra hmis
    simp [step_flush_of_not_mispredicts ha hmis hstep2] at hflush
  have hright : t3.flush = false → (recordOf i).op.isBranch = true → predict s.predCtr = (seqValue i (archOf s)).getLsbD 0 := by
    intro hflush hbranch
    by_contra hwrong
    rw [seqTaddr_of_isBranch _ hbranch] at hfired
    obtain ⟨hheadBranch, hpred, hvalue, -⟩ := head_of_fired_branch hd hbranch hfired
    have hmis : Mispredicts t2 := ⟨hready, hheadBranch, by rw [hpred, hvalue]; exact Ne.symm hwrong⟩
    simp [step_of_mispredicts ha hmis hstep2] at hflush
  refine ⟨issuedAlone i s, t2, t3, ⟨exec_of_drained i hd hm, hstep1, hstep2⟩, fun r => by rw [readReg, hregs, Arch.get],
    fun a => by rw [hmem], fun hi => ?_, fun hi hjalr hflush => planOf_nextPc_eq_seqExec_pc rfl hjalr hi (hright hflush), ?_⟩
  · obtain ⟨hhalted, -⟩ := onlyTwoEventsEndRun t2 t3 ha hstep2
    exact hhalted.2 ⟨hready, .inr (by rw [hhead.op, hi]; rfl)⟩
  · rintro (hop | hflush)
    · obtain ⟨-, hblock⟩ := jalr_alone hc2 hready.1 (hhead.op.trans hop)
      obtain ⟨hmark, -⟩ := (RobEntry.commitClass_eq_jumpRegister_iff _).1 (hhead.commitClass.trans (by rw [hop]; rfl))
      obtain ⟨t3', hstep2', -, hpc, -⟩ := jumpRegisterCommit t2 hm2 ha hblock hready hmark (hhead.op.trans hop)
      cases hstep2.symm.trans hstep2'
      exact hpc.trans (hhead.addr_of_jalr hop)
    · obtain ⟨-, ⟨-, hbranch⟩, hwrong⟩ := hmispredicts hflush
      rw [step_of_mispredicts ha (hmispredicts hflush) hstep2]
      exact hhead.addr_of_mispredicted (hhead.op ▸ hbranch) hwrong

end Sys2Proof.Proofs
end

section
/-! PROOFS, `70_reset_and_hazards.md`. `Seq` as an iteration: the states it runs through, and what they leave of a register or a byte that
none of the instructions between them writes (R306). -/

namespace Sys2Proof.Machine

open Safety

/-! ### The states that `Seq` runs through -/

/-- The word that `Seq` fetches. -/
def Arch.word (a : Arch) : Word := memRead a.mem a.pc .word

/-- One step of `Seq`, which stays where it is at an unrecognised word and at the sentinel. -/
def seqNext (a : Arch) : Arch :=
  match decodeWord a.word with
  | .ok i => seqExec i a
  | .error _ => a

/-- The state `n` such steps after `a`. -/
def seqAt (a : Arch) (n : Nat) : Arch := seqNext^[n] a

/-- What the instruction at the pc computes. -/
def seqResult (a : Arch) : Word :=
  match decodeWord a.word with
  | .ok i => seqValue i a
  | .error _ => 0

theorem seqAt_succ (a : Arch) (n : Nat) : seqAt a (n + 1) = seqNext (seqAt a n) := Function.iterate_succ_apply' seqNext n a

theorem seqAt_seqNext (a : Arch) (n : Nat) : seqAt (seqNext a) n = seqAt a (n + 1) := rfl

section
variable {a : Arch} {i : Instr} (h : decodeWord a.word = .ok i)
include h

theorem seqNext_of_ok : seqNext a = seqExec i a := by simp [seqNext, h]

theorem seqResult_of_ok : seqResult a = seqValue i a := by simp [seqResult, h]

theorem seqStep_of_ok (hi : i ≠ .halt) : seqStep a = .running (seqNext a) := by
  rw [seqNext_of_ok h]
  rw [Arch.word] at h
  unfold seqStep
  rw [h]
  cases i
  case halt => exact absurd rfl hi
  all_goals rfl

end

theorem seqStep_of_halt {a : Arch} (h : decodeWord a.word = .ok .halt) : seqStep a = .halted a := by
  rw [Arch.word] at h
  simp [seqStep, h]

theorem seqNext_of_error {a : Arch} {r : DecodeReject} (h : decodeWord a.word = .error r) : seqNext a = a := by simp [seqNext, h]

/-- A run that has not stopped goes on with the next step. -/
theorem seqRun_succ {n : Nat} {a b : Arch} (h : seqRun n a = .running b) : seqRun (n + 1) a = seqStep b := by
  induction n generalizing a with
  | zero =>
    obtain rfl : a = b := SeqResult.running.inj h
    rw [seqRun]
    cases seqStep a <;> rfl
  | succ n ih =>
    rw [seqRun] at h ⊢
    cases hstep : seqStep a with
    | running c => simp only [hstep] at h ⊢; exact ih h
    | halted c => simp [hstep] at h
    | fatal c => simp [hstep] at h

theorem seqRun_of_seqStep {n : Nat} {a b : Arch} (h : seqStep a = .running b) : seqRun (n + 1) a = seqRun n b := by
  rw [seqRun, h]

/-! ### Registers between two states of `Seq` -/

/-- The instruction writes register `r` (R98, R299). -/
def WritesReg (i : Instr) (r : Reg) : Prop := (recordOf i).op.writesReg = true ∧ (recordOf i).rd = r

theorem seqExec_get_of_not_writes {i : Instr} {r : Reg} (a : Arch) (h : ¬ WritesReg i r) : (seqExec i a).get r = a.get r := by
  by_cases hr : r = 0
  · simp [Arch.get, hr]
  rw [Arch.get, Arch.get, if_neg hr, if_neg hr, seqExec_x]
  split_ifs with hw
  · have hne : (recordOf i).rd ≠ r := fun hrd => h ⟨(Op.writesReg_iff _).2 (hw.1.imp_right .inl), hrd⟩
    exact Bank.get_put_ne _ _ hne
  · rfl

theorem recordOf_op_eq_halt_iff (i : Instr) : (recordOf i).op = .halt ↔ i = .halt := by
  cases i <;> simp [recordOf]

theorem seqExec_get_of_writes {i : Instr} {r : Reg} (a : Arch) (h : WritesReg i r) (hi : i ≠ .halt) (hr : r ≠ 0) :
    (seqExec i a).get r = seqValue i a := by
  obtain ⟨hw, rfl⟩ := h
  have hclass : (recordOf i).op.commitClass = .register ∨ (recordOf i).op.commitClass = .jumpRegister := by
    obtain h | h | h := (Op.writesReg_iff _).1 hw
    · exact .inl h
    · exact .inr h
    · exact absurd ((recordOf_op_eq_halt_iff i).1 ((Op.commitClass_eq_halt_iff _).1 h)) hi
  rw [Arch.get, if_neg hr, seqExec_x, if_pos ⟨hclass, hr⟩, Bank.get_put_same]

/-- A register that no instruction between two states writes. -/
theorem seqAt_get_frame {a : Arch} {r : Reg} {n m : Nat} (hnm : n ≤ m)
    (h : ∀ j, n ≤ j → j < m → ∀ i, decodeWord (seqAt a j).word = .ok i → ¬ WritesReg i r) :
    (seqAt a m).get r = (seqAt a n).get r := by
  induction m, hnm using Nat.le_induction with
  | base => rfl
  | succ m hnm ih =>
    rw [← ih fun j hj hjm => h j hj (by omega), seqAt_succ]
    cases hd : decodeWord (seqAt a m).word with
    | error r => rw [seqNext_of_error hd]
    | ok i => rw [seqNext_of_ok hd, seqExec_get_of_not_writes _ (h m hnm (by omega) i hd)]

/-! ### Memory between two states of `Seq` -/

theorem seqNext_mem_wf {a : Arch} (h : a.mem.wf = true) : (seqNext a).mem.wf = true := by
  cases hd : decodeWord a.word with
  | error r => rwa [seqNext_of_error hd]
  | ok i =>
    rw [seqNext_of_ok hd, seqExec_mem]
    split
    next => exact memWrite_wf h _ _ _
    next => exact h

theorem seqAt_mem_wf {a : Arch} (h : a.mem.wf = true) (n : Nat) : (seqAt a n).mem.wf = true := by
  induction n with
  | zero => exact h
  | succ n ih => rw [seqAt_succ]; exact seqNext_mem_wf ih

/-- The instruction `i`, executed in `a`, is a store one of whose bytes is `x`. -/
def StoresTo (i : Instr) (a : Arch) (x : Word) : Prop :=
  (recordOf i).op.isStore = true ∧ inAccess (effectiveAddress (seqEntry i a)) (recordOf i).op.width x = true

theorem seqExec_memByte_of_not_stores {i : Instr} {a : Arch} {x : Word} (hwf : a.mem.wf = true) (h : ¬ StoresTo i a x) :
    memByte (seqExec i a).mem x = memByte a.mem x := by
  rw [seqExec_mem]
  split
  next hstore => exact memByte_memWrite_outside hwf _ _ _ _ (Bool.eq_false_iff.2 fun hin => h ⟨hstore, hin⟩)
  next => rfl

/-- A byte that no store up to a state writes. -/
theorem seqAt_memByte_frame {a : Arch} {x : Word} (hwf : a.mem.wf = true) {m : Nat}
    (h : ∀ j, j < m → ∀ i, decodeWord (seqAt a j).word = .ok i → ¬ StoresTo i (seqAt a j) x) :
    memByte (seqAt a m).mem x = memByte a.mem x := by
  induction m with
  | zero => rfl
  | succ m ih =>
    rw [← ih fun j hj => h j (by omega), seqAt_succ]
    cases hd : decodeWord (seqAt a m).word with
    | error r => rw [seqNext_of_error hd]
    | ok i => rw [seqNext_of_ok hd, seqExec_memByte_of_not_stores (seqAt_mem_wf hwf m) (h m (by omega) i hd)]

/-- What an access reads is a matter of its own bytes. -/
theorem memRead_congr {m m' : Mem} {base : Word} {n : Width} (h : ∀ x, inAccess base n x = true → memByte m x = memByte m' x) :
    memRead m base n = memRead m' base n := by
  have hbyte : ∀ k, k < n.bytes → memByte m (base + BitVec.ofNat 32 k) = memByte m' (base + BitVec.ofNat 32 k) :=
    fun k hk => h _ ((inAccess_iff _ _ _).2 ⟨k, hk, rfl⟩)
  cases n with
  | byte => simpa [memRead] using congrArg (BitVec.setWidth 32) (hbyte 0 (by decide))
  | half =>
    have h0 : memByte m base = memByte m' base := by simpa using hbyte 0 (by decide)
    have h1 : memByte m (base + 1) = memByte m' (base + 1) := hbyte 1 (by decide)
    rw [memRead, memRead, h0, h1]
  | word =>
    have h0 : memByte m base = memByte m' base := by simpa using hbyte 0 (by decide)
    have h1 : memByte m (base + 1) = memByte m' (base + 1) := hbyte 1 (by decide)
    have h2 : memByte m (base + 2) = memByte m' (base + 2) := hbyte 2 (by decide)
    have h3 : memByte m (base + 3) = memByte m' (base + 3) := hbyte 3 (by decide)
    rw [memRead, memRead, h0, h1, h2, h3]

/-! ### A program that does not store into its own instruction stream (R306, R362) -/

/-- The bytes that `Seq` writes at a store are those of the store's entry. -/
theorem storeOf_of_isStore {a : Arch} {i : Instr} (h : decodeWord a.word = .ok i) (hstore : (recordOf i).op.isStore = true) :
    storeOf a = some (effectiveAddress (seqEntry i a), (recordOf i).op.width) := by
  rw [Arch.word] at h
  unfold storeOf
  rw [h]
  cases i
  case sb | sh | sw => rfl
  all_goals exact Bool.noConfusion hstore

theorem noSelfModification_seqStep {a b : Arch} (h : NoSelfModification a) (hstep : seqStep a = .running b) : NoSelfModification b := by
  intro j k c d base n hjk hj hk
  exact h (j + 1) (k + 1) c d base n (by omega) (by rwa [seqRun_of_seqStep hstep]) (by rwa [seqRun_of_seqStep hstep])

end Sys2Proof.Machine
end

section
/-! PROOFS, `70_reset_and_hazards.md`. The relation between a state of the block and the state of `Seq` before the head: the instructions in
flight, up to the first misprediction, are those that `Seq` executes next. A fire keeps it (R41, R42, R146, R170 to R180, R306). -/

namespace Sys2Proof.Machine

open Safety

/-! ### The relation -/

/-- The state of `Seq` in which it executes the instruction with ROB id `k`, when `a` is its state before the head. -/
abbrev archAt (s : State) (a : Arch) (k : RobId) : Arch := seqAt a (age s k)

/-- `Seq` goes on past the instruction with ROB id `k` on the path that was predicted at its issue. -/
def GoesOn (s : State) (a : Arch) (k : RobId) : Prop :=
  ∃ i, decodeWord (archAt s a k).word = .ok i ∧ i ≠ .halt ∧
    ((recordOf i).op.isBranch = true → (robAt s k).pred = (seqValue i (archAt s a k)).getLsbD 0)

/-- The first `n` instructions in flight are on the path of `Seq`, and so is what comes after them. -/
def OnPath (s : State) (a : Arch) (n : Nat) : Prop := ∀ k, occupied s k = true → age s k < n → GoesOn s a k

/-- The ROB entry `e` is that of the instruction `i`, which `Seq` executes in `b`. -/
structure IssuedAs (e : RobEntry) (i : Instr) (b : Arch) : Prop where
  op : e.op = (recordOf i).op
  rd : e.rd = (recordOf i).rd
  value : e.busy = false → e.value = seqValue i b
  addr : e.busy = false → ∀ ta, seqTaddr i b = some ta → e.addr = ta
  other_path : (recordOf i).op.isBranch = true → e.addr = if e.pred then b.pc + 4 else b.pc + (recordOf i).imm

/-- The ROB entry `e` is that of the word that `Seq` fetches in `b`. -/
structure RobHolds (e : RobEntry) (b : Arch) : Prop where
  issued : ∀ i, decodeWord b.word = .ok i → IssuedAs e i b
  invalid : ∀ r, decodeWord b.word = .error r → e.op = .invalid

/-- An operand slot is resolved to `x`, or waits for an instruction that computes `x`; `b` is the state of `Seq` by ROB id. -/
structure OperandHolds (b : RobId → Arch) (x v : Word) (q : Option RobId) : Prop where
  resolved : q = none → v = x
  pending : ∀ l, q = some l → seqResult (b l) = x

/-- The entry `e` holds the immediate and the operands of the instruction that `Seq` executes at its place. -/
def EntryHolds (b : RobId → Arch) (e : StationEntry) : Prop :=
  ∀ i, decodeWord (b e.dest).word = .ok i → e.imm = (recordOf i).imm ∧
    OperandHolds b (seqEntry i (b e.dest)).vj e.vj e.qj ∧ OperandHolds b (seqEntry i (b e.dest)).vk e.vk e.qk

/-- The block in state `s` follows `Seq` from `a`, the state before the head: the committed registers and memory are those of `a`, and
every entry on the path is that of the instruction which `Seq` executes at its place. -/
structure Follows (s : State) (a : Arch) : Prop where
  regs : a.x = s.regs
  mem : a.mem = s.mem
  robs : ∀ k, occupied s k = true → OnPath s a (age s k) → RobHolds (robAt s k) (archAt s a k)
  entries : ∀ p, (entryAt s p).busy = true → OnPath s a (age s (entryAt s p).dest) → EntryHolds (archAt s a) (entryAt s p)
  pc : s.block = false → OnPath s a s.robSize.toNat → s.pc = (seqAt a s.robSize.toNat).pc

/-! ### The path -/

section
variable {s : State} {a : Arch}

theorem OnPath.mono {n m : Nat} (h : OnPath s a m) (hnm : n ≤ m) : OnPath s a n := fun k hk hlt => h k hk (by omega)

theorem onPath_zero (s : State) (a : Arch) : OnPath s a 0 := fun _ _ h => absurd h (Nat.not_lt_zero _)

/-- What is older than an instruction on the path is on the path. -/
theorem OnPath.of_older {k d : RobId} (h : OnPath s a (age s d)) (holder : older s k d = true) : OnPath s a (age s k) :=
  h.mono ((older_iff s k d).1 holder).2.le

theorem exists_age_eq (s : State) {n : Nat} (h : n < 32) : ∃ k, age s k = n := by
  refine ⟨s.robHead + BitVec.ofNat 5 n, ?_⟩
  simp only [age]
  bv_omega

/-- Every age below `rob.size` is that of an entry in flight. -/
theorem exists_occupied (hsize : s.robSize.toNat ≤ 32) {n : Nat} (h : n < s.robSize.toNat) :
    ∃ k, occupied s k = true ∧ age s k = n := by
  obtain ⟨k, hk⟩ := exists_age_eq s (lt_of_lt_of_le h hsize)
  exact ⟨k, (occupied_iff s k).2 (hk ▸ h), hk⟩

/-- `Seq` runs along the path. -/
theorem OnPath.seqRun (hsize : s.robSize.toNat ≤ 32) {n : Nat} (hn : n ≤ s.robSize.toNat) (h : OnPath s a n) :
    seqRun n a = .running (seqAt a n) := by
  induction n with
  | zero => rfl
  | succ n ih =>
    obtain ⟨k, hk, rfl⟩ := exists_occupied hsize hn
    obtain ⟨i, hd, hi, -⟩ := h k hk (Nat.lt_succ_self _)
    rw [seqRun_succ (ih (by omega) (h.mono (by omega))), seqStep_of_ok hd hi, seqAt_succ]

end

/-! ### What the entries in flight say of `Seq` -/

section
variable {s : State} {a : Arch} (hf : Follows s a) (hsize : s.robSize.toNat ≤ 32)
include hf

theorem Follows.get_eq_readReg (r : Reg) : a.get r = readReg s r := by rw [Arch.get, hf.regs, readReg]

/-- An instruction on the path promises what it writes. -/
theorem Follows.promises_iff {k : RobId} (hk : occupied s k = true) (hpath : OnPath s a (age s k)) {i : Instr}
    (hd : decodeWord (archAt s a k).word = .ok i) (r : Reg) : Promises s r k ↔ WritesReg i r := by
  have hissued := (hf.robs k hk hpath).issued i hd
  rw [Promises, hissued.op, hissued.rd, WritesReg, and_iff_right hk]

include hsize

/-- A register that nothing in flight from age `n` to age `m` promises. -/
theorem Follows.get_frame {r : Reg} {n m : Nat} (hnm : n ≤ m) (hm : m ≤ s.robSize.toNat) (hpath : OnPath s a m)
    (h : ∀ k, n ≤ age s k → age s k < m → ¬ Promises s r k) : (seqAt a m).get r = (seqAt a n).get r := by
  refine seqAt_get_frame hnm fun j hnj hjm i hd hw => ?_
  obtain ⟨k, hk, rfl⟩ := exists_occupied hsize (show j < s.robSize.toNat by omega)
  exact h k hnj hjm ((hf.promises_iff hk (hpath.mono hjm.le) hd r).2 hw)

/-- A register that nothing in flight promises is as committed. -/
theorem Follows.get_of_no_promise {r : Reg} (hpath : OnPath s a s.robSize.toNat) (h : ∀ k, ¬ Promises s r k) :
    (seqAt a s.robSize.toNat).get r = readReg s r :=
  (hf.get_frame hsize (Nat.zero_le _) le_rfl hpath fun k _ _ => h k).trans (hf.get_eq_readReg r)

/-- After the instructions in flight a promised register holds what its youngest producer computes (R42 (c)). -/
theorem Follows.get_of_youngestPromise {r : Reg} (hr : r ≠ 0) {k : RobId} (hpath : OnPath s a s.robSize.toNat)
    (h : YoungestPromise s r k) : (seqAt a s.robSize.toNat).get r = seqResult (archAt s a k) := by
  obtain ⟨hprom, hyoungest⟩ := h
  have hlt := (occupied_iff s k).1 hprom.1
  obtain ⟨i, hd, hi, -⟩ := hpath k hprom.1 hlt
  have hafter : (seqAt a s.robSize.toNat).get r = (seqAt a (age s k + 1)).get r :=
    hf.get_frame hsize hlt le_rfl hpath fun j hj _ hpj => absurd (hyoungest j hpj) (by omega)
  have hw : WritesReg i r := (hf.promises_iff hprom.1 (hpath.mono hlt.le) hd r).1 hprom
  rw [hafter, seqAt_succ, seqNext_of_ok hd, seqExec_get_of_writes _ hw hi hr, seqResult_of_ok hd]

/-- An access that no store in flight below age `m` touches reads in `Seq` what it reads in the block. -/
theorem Follows.memRead_eq (hwf : s.mem.wf = true) {m : Nat} (hm : m ≤ s.robSize.toNat) {base : Word} {n : Width}
    (h : ∀ k i, occupied s k = true → age s k < m → decodeWord (archAt s a k).word = .ok i → ∀ x, inAccess base n x = true →
      ¬ StoresTo i (archAt s a k) x) : memRead s.mem base n = memRead (seqAt a m).mem base n := by
  refine memRead_congr fun x hx => ?_
  rw [← hf.mem] at hwf ⊢
  refine (seqAt_memByte_frame hwf fun j hj i hd => ?_).symm
  obtain ⟨k, hk, rfl⟩ := exists_occupied hsize (show j < s.robSize.toNat by omega)
  exact h k i hk hj hd x hx

end

/-! ### A fire (R176 to R180) -/

section
variable {s : State} {a : Arch} (hf : Follows s a) (hc : Consistent s)
include hf hc

/-- A load that passes the check of R171 reads what `Seq` reads: the older stores are ready, and none touches its bytes. -/
theorem Follows.load_reads (hwf : s.mem.wf = true) {e : StationEntry} (hlive : occupied s e.dest = true)
    (hpath : OnPath s a (age s e.dest)) (hpass : loadPasses s e = true) :
    memRead s.mem (effectiveAddress e) e.op.width = memRead (archAt s a e.dest).mem (effectiveAddress e) e.op.width := by
  have hlt := (occupied_iff s _).1 hlive
  refine hf.memRead_eq hc.size_le hwf hlt.le fun k i hk hage hd x hx hstores => ?_
  obtain ⟨hstore, hin⟩ := hstores
  have hissued := (hf.robs k hk (hpath.mono hage.le)).issued i hd
  obtain ⟨hready, hover⟩ := (loadPasses_iff s e).1 hpass k ((older_iff s k _).2 ⟨hk, hage⟩) (by rw [hissued.op]; exact hstore)
  rw [← Bool.not_eq_true, overlap_iff] at hover
  refine hover ⟨x, ?_, hx⟩
  rwa [hissued.addr hready _ (seqTaddr_of_isStore _ hstore), hissued.op]

/-- An entry on the path that fires computes what its instruction computes in `Seq`. -/
theorem Follows.fired (hm : FullMemory s) (hwf : s.mem.wf = true) {p : Pick} (helig : eligible s p.station (entryAt s p) = true)
    (hpath : OnPath s a (age s (entryAt s p).dest)) {v : Word} {t : Option Word}
    (hfire : fireEntry s (entryAt s p) = .ok (.result v t)) :
    ∃ i, decodeWord (archAt s a (entryAt s p).dest).word = .ok i ∧ v = seqValue i (archAt s a (entryAt s p).dest) ∧
      t = seqTaddr i (archAt s a (entryAt s p).dest) := by
  obtain ⟨hb, hqj, hqk⟩ := eligible_ready helig
  obtain ⟨hlive, -, hop, hroute⟩ := hc.entry_live p hb
  have hrob := hf.robs _ hlive hpath
  rw [fireEntry_eq_computed hm, Except.ok.injEq] at hfire
  cases hd : decodeWord (archAt s a (entryAt s p).dest).word with
  | error r =>
    have hinvalid : (entryAt s p).op = .invalid := hop.symm.trans (hrob.invalid r hd)
    simp [computed, hinvalid, Op.isLoad, Op.isStore, alu, Computed.ofAlu] at hfire
  | ok i =>
    have hopi : (entryAt s p).op = (recordOf i).op := hop.symm.trans (hrob.issued i hd).op
    obtain ⟨himm, hj, hk⟩ := hf.entries p hb hpath i hd
    have hmem : computed s.mem (entryAt s p) = computed (archAt s a (entryAt s p).dest).mem (entryAt s p) := by
      cases hload : (entryAt s p).op.isLoad with
      | false => exact computed_of_not_isLoad hload _ _
      | true =>
        have hst : p.station = .lsb := by rw [hroute, routeOf_eq_lsb_iff, Op.isMem_iff]; exact .inl hload
        rw [hst, eligible_load_iff s hload] at helig
        simp only [computed, hload, if_true, hf.load_reads hc hwf hlive hpath helig.2]
    rw [hmem, computed_congr (e' := seqEntry i (archAt s a (entryAt s p).dest)) _ hopi (hj.resolved hqj) (hk.resolved hqk) himm,
      computed_seqEntry] at hfire
    cases hfire
    exact ⟨i, rfl, rfl, rfl⟩

end

/-- A broadcast of what an operand waits for resolves it. -/
theorem OperandHolds.wake {b : RobId → Arch} {x v : Word} {q : Option RobId} (h : OperandHolds b x v q) {d : RobId} {u : Word}
    (hu : q = some d → u = seqResult (b d)) :
    OperandHolds b x (if q = some d then u else v) (if q = some d then none else q) := by
  by_cases hq : q = some d
  · rw [if_pos hq, if_pos hq]
    exact ⟨fun _ => (hu hq).trans (h.pending d hq), fun _ hl => by cases hl⟩
  · rwa [if_neg hq, if_neg hq]

section
variable {s : State} {a : Arch} (f : Fire)

theorem goesOn_applyFire_iff (k : RobId) : GoesOn (applyFire f s) a k ↔ GoesOn s a k := by
  have hpred : (robAt (applyFire f s) k).pred = (robAt s k).pred := by rw [robAt_applyFire]; split <;> rfl
  simp only [GoesOn, hpred]
  exact Iff.rfl

theorem onPath_applyFire_iff (n : Nat) : OnPath (applyFire f s) a n ↔ OnPath s a n :=
  forall_congr' fun k => imp_congr_right fun _ => imp_congr_right fun _ => goesOn_applyFire_iff f k

end

/-- A fire keeps the relation: the ROB entry takes what `Seq` computes, and so does every operand that waits for it. -/
theorem Follows.applyFire {s : State} {a : Arch} (hf : Follows s a) (hc : Consistent s) (hm : FullMemory s) (hwf : s.mem.wf = true)
    {p : Pick} (helig : eligible s p.station (entryAt s p) = true) {v : Word} {t : Option Word}
    (hfire : fireEntry s (entryAt s p) = .ok (.result v t)) :
    Follows (applyFire { pick := p, dest := (entryAt s p).dest, value := v, taddr := t } s) a where
  regs := hf.regs
  mem := hf.mem
  robs k hk hpath := by
    rw [onPath_applyFire_iff] at hpath
    have hold := hf.robs k hk hpath
    rw [robAt_applyFire]
    split
    next hkd =>
      subst hkd
      obtain ⟨i, hd, rfl, rfl⟩ := hf.fired hc hm hwf helig hpath hfire
      refine ⟨fun i' hd' => ?_, hold.invalid⟩
      obtain rfl : i = i' := Except.ok.inj (hd.symm.trans hd')
      have hissued := hold.issued i hd
      exact
        { op := hissued.op
          rd := hissued.rd
          value := fun _ => rfl
          addr := fun _ ta hta => by
            have haddr : seqTaddr i (archAt s a (entryAt s p).dest) = some ta := hta
            simp [completeRob, haddr]
          other_path := fun hbranch => by
            simp only [completeRob, seqTaddr_of_isBranch _ hbranch]
            exact hissued.other_path hbranch }
    next => exact hold
  entries q hq hpath := by
    obtain ⟨hne, hqb⟩ := (entryAt_applyFire_busy_iff _ s q).1 hq
    rw [entryAt_applyFire_ne s hne, wakeEntry_dest, onPath_applyFire_iff] at hpath
    rw [entryAt_applyFire_ne s hne]
    intro i hd
    rw [wakeEntry_dest] at hd
    obtain ⟨himm, hj, hk⟩ := hf.entries q hqb hpath i hd
    have hwake : (entryAt s q).qj = some (entryAt s p).dest ∨ (entryAt s q).qk = some (entryAt s p).dest →
        v = seqResult (archAt s a (entryAt s p).dest) := fun htag => by
      obtain ⟨holder, -⟩ := hc.tag_live q _ hqb htag
      obtain ⟨i', hd', rfl, -⟩ := hf.fired hc hm hwf helig (hpath.of_older holder) hfire
      exact (seqResult_of_ok hd').symm
    simp only [wakeEntry, hqb, if_true]
    exact ⟨himm, hj.wake fun h => hwake (.inl h), hk.wake fun h => hwake (.inr h)⟩
  pc hblock hpath := hf.pc hblock ((onPath_applyFire_iff _ _).1 hpath)

/-- Execute keeps the relation, whatever it answers. -/
theorem Follows.applyExecute {s : State} {a : Arch} (hf : Follows s a) (hc : Consistent s) (hm : FullMemory s) (hwf : s.mem.wf = true)
    {ex : ExecResult} (hex : execute s = .ok ex) : Follows (applyExecute s ex) a := by
  rcases execute_cases hex with ⟨rfl, -⟩ | ⟨rfl, -⟩ | ⟨p, v, t, hsel, hfire, rfl⟩
  · exact hf
  · exact { hf with }
  · exact hf.applyFire hc hm hwf (select_eligible hsel) hfire

end Sys2Proof.Machine
end

section
/-! PROOFS, `70_reset_and_hazards.md`. A retirement and a flush are each one step of `Seq`, and keep the relation between the block and
`Seq` (R291 to R299, R306). -/

namespace Sys2Proof.Machine

open Safety

/-! ### What is in flight before and after -/

/-- The instructions in flight in `n`, counted from `b`, are at the places of `Seq` at which they are in `s`, counted from `a`; the path
through `n` ends where that through `s` does. -/
structure Advances (s n : State) (a b : Arch) : Prop where
  path : OnPath n b n.robSize.toNat → OnPath s a s.robSize.toNat
  arch : ∀ k, occupied n k = true → archAt n b k = archAt s a k
  last : seqAt b n.robSize.toNat = seqAt a s.robSize.toNat

/-- Execute moves nothing, and changes no prediction. -/
theorem advances_applyExecute (s : State) (ex : ExecResult) (a : Arch) : Advances s (applyExecute s ex) a a := by
  cases ex with
  | idle => exact ⟨id, fun _ _ => rfl, rfl⟩
  | fatal => exact ⟨id, fun _ _ => rfl, rfl⟩
  | fired f => exact ⟨(onPath_applyFire_iff f _).1, fun _ _ => rfl, rfl⟩

/-! ### The head (R290, R292) -/

section
variable {n : State} {a : Arch} (hf : Follows n a) (hc : Consistent n) (hready : HeadReady n)
include hf hc hready

omit hc in
theorem Follows.head_holds : RobHolds (head n) a := by
  have hholds := hf.robs n.robHead (occupied_head hready.1) (age_head n ▸ onPath_zero n a)
  rwa [archAt, age_head] at hholds

omit hf in
/-- In a consistent state the mark of the head agrees with its operation. -/
theorem head_commitClass : (head n).commitClass = (head n).op.commitClass := by
  cases hmark : (head n).halt with
  | false => simp [RobEntry.commitClass, hmark]
  | true =>
    have hop : (head n).op = .halt := (hc.halt_mark _ (occupied_head hready.1)).1 hmark
    simp [RobEntry.commitClass, hmark, hop, Op.commitClass]

/-- A ready head that retires at all is complete, as the instruction that `Seq` executes next. -/
theorem Follows.head_completes (hnever : (head n).commitClass ≠ .never) :
    ∃ i, decodeWord a.word = .ok i ∧ Completes (head n) i a := by
  have hholds := hf.head_holds hready
  have hclass := head_commitClass hc hready
  cases hd : decodeWord a.word with
  | error r => exact absurd (by rw [hclass, hholds.invalid r hd]; rfl) hnever
  | ok i =>
    have hissued := hholds.issued i hd
    exact ⟨i, rfl,
      { commitClass := by rw [hclass, hissued.op]
        op := hissued.op
        rd := hissued.rd
        value := hissued.value hready.2
        addr := hissued.addr hready.2
        other_path := hissued.other_path }⟩

/-- The retirement of the sentinel is the stop of `Seq` (R278, R301). -/
theorem Follows.seqStep_halted (hclass : (head n).commitClass = .halt) : seqStep a = .halted a := by
  obtain ⟨i, hd, hi⟩ := hf.head_completes hc hready (by rw [hclass]; simp)
  have hop : (recordOf i).op.commitClass = .halt := hi.commitClass.symm.trans hclass
  obtain rfl := (recordOf_op_eq_halt_iff i).1 ((Op.commitClass_eq_halt_iff _).1 hop)
  exact seqStep_of_halt hd

end

theorem Completes.ne_halt {e : RobEntry} {i : Instr} {b : Arch} (h : Completes e i b) (hclass : e.commitClass ≠ .halt) : i ≠ .halt := by
  rintro rfl
  exact hclass (h.commitClass.trans rfl)

/-! ### A retirement (R291) -/

section
variable {n : State} {a : Arch} (hf : Follows n a) (hc : Consistent n) (hready : HeadReady n)
  (hnever : (head n).commitClass ≠ .never) (hhalt : (head n).commitClass ≠ .halt) (hmis : ¬ Mispredicts n)
include hf hc hready hnever hhalt

theorem Follows.seqStep_running : seqStep a = .running (seqNext a) := by
  obtain ⟨i, hd, hi⟩ := hf.head_completes hc hready hnever
  exact seqStep_of_ok hd (hi.ne_halt hhalt)

include hmis

/-- A head that is retired without a flush is one that `Seq` goes on past. -/
theorem Follows.goesOn_head : GoesOn n a n.robHead := by
  obtain ⟨i, hd, hi⟩ := hf.head_completes hc hready hnever
  rw [GoesOn, archAt, age_head]
  refine ⟨i, hd, hi.ne_halt hhalt, fun hbranch => ?_⟩
  have hclass : (head n).commitClass = .branch := hi.commitClass.trans ((Op.commitClass_eq_branch_iff _).2 hbranch)
  by_contra hwrong
  exact hmis ⟨hready, (RobEntry.commitClass_eq_branch_iff _).1 hclass, by rw [hi.value]; exact Ne.symm hwrong⟩

omit hf hnever hhalt hmis in
theorem archAt_retired {k : RobId} (hk : occupied (retired n) k = true) : archAt (retired n) (seqNext a) k = archAt n a k := by
  obtain ⟨-, hne⟩ := (occupied_retired hc hready.1 k).1 hk
  rw [archAt, seqAt_seqNext, age_retire (retired_robHead n) hne]

/-- The path after the retirement is the rest of the path before it. -/
theorem Follows.onPath_retired {m : Nat} (h : OnPath (retired n) (seqNext a) m) : OnPath n a (m + 1) := by
  intro k hk hlt
  by_cases hkh : k = n.robHead
  · exact hkh ▸ hf.goesOn_head hc hready hnever hhalt hmis
  · have hk' : occupied (retired n) k = true := (occupied_retired hc hready.1 k).2 ⟨hk, hkh⟩
    have hage := age_retire (retired_robHead n) hkh
    have hgoes := h k hk' (by omega)
    rwa [GoesOn, archAt_retired hc hready hk', robAt_retired] at hgoes

theorem Follows.advances_retired : Advances n (retired n) a (seqNext a) where
  path h := by
    rw [← robSize_retire (retired_robSize n) hready.1]
    exact hf.onPath_retired hc hready hnever hhalt hmis h
  arch _ hk := archAt_retired hc hready hk
  last := by rw [seqAt_seqNext, robSize_retire (retired_robSize n) hready.1]

/-- After the commit of a JALR the pc is that of `Seq`, and nothing is in flight; another retirement does not touch the pc. -/
theorem Follows.pc_retired (hblock : (retired n).block = false)
    (hpath : OnPath (retired n) (seqNext a) (retired n).robSize.toNat) :
    (retired n).pc = (seqAt (seqNext a) (retired n).robSize.toNat).pc := by
  have hpc : (retired n).pc = if (head n).commitClass = .jumpRegister then (head n).addr else n.pc := by
    simp [retired, commitEffect_pc]
  have hadvances := hf.advances_retired hc hready hnever hhalt hmis
  rw [hpc]
  split
  next hclass =>
    obtain ⟨i, hd, hi⟩ := hf.head_completes hc hready hnever
    have hop : (recordOf i).op = .jalr := (Op.commitClass_eq_jumpRegister_iff _).1 (hi.commitClass.symm.trans hclass)
    obtain ⟨hsize, -⟩ := jalr_alone hc hready.1 (hi.op.trans hop)
    rw [hi.addr_of_jalr hop, ← seqNext_of_ok hd, retired_robSize, hsize]
    rfl
  next hclass =>
    have hblock' : n.block = false := by
      rw [← Bool.not_eq_true] at hblock ⊢
      exact fun h => hblock ((retired_block n).2 ⟨h, hclass⟩)
    rw [hadvances.last, hf.pc hblock' (hadvances.path hpath)]

/-- The retirement of a ready head keeps the relation: it is the step of `Seq`. -/
theorem Follows.retired : Follows (retired n) (seqNext a) := by
  obtain ⟨i, hd, hi⟩ := hf.head_completes hc hready hnever
  have hnext := seqNext_of_ok hd
  have hpath : ∀ {k}, occupied (Safety.retired n) k = true →
      OnPath (Safety.retired n) (seqNext a) (age (Safety.retired n) k) → OnPath n a (age n k) := fun {k} hk h => by
    rw [← age_retire (retired_robHead n) ((occupied_retired hc hready.1 k).1 hk).2]
    exact hf.onPath_retired hc hready hnever hhalt hmis h
  constructor
  case regs => rw [hnext, Safety.retired, retireHead_regs, hi.regs hf.regs]
  case mem => rw [hnext, Safety.retired, retireHead_mem, hi.mem hf.mem]
  case robs =>
    intro k hk h
    rw [robAt_retired, archAt_retired hc hready hk]
    exact hf.robs k ((occupied_retired hc hready.1 k).1 hk).1 (hpath hk h)
  case entries =>
    intro p hp h
    have hlive : occupied (Safety.retired n) (entryAt (Safety.retired n) p).dest = true := ((hc.retired hready).entry_live p hp).1
    have htag := fun q => (hc.retired hready).tag_live p q hp
    rw [entryAt_retired] at hp h hlive htag ⊢
    have hplace := archAt_retired (a := a) hc hready hlive
    have hwait : ∀ l, (entryAt n p).qj = some l ∨ (entryAt n p).qk = some l →
        archAt (Safety.retired n) (seqNext a) l = archAt n a l := fun l hl =>
      archAt_retired hc hready ((older_iff _ _ _).1 (htag l hl).1).1
    intro i' hd'
    rw [hplace] at hd' ⊢
    obtain ⟨himm, hj, hk⟩ := hf.entries p hp (hpath hlive h) i' hd'
    exact ⟨himm, ⟨hj.resolved, fun l hl => by rw [hwait l (.inl hl)]; exact hj.pending l hl⟩,
      ⟨hk.resolved, fun l hl => by rw [hwait l (.inr hl)]; exact hk.pending l hl⟩⟩
  case pc => exact hf.pc_retired hc hready hnever hhalt hmis

end

/-! ### A misprediction (R295) -/

/-- With nothing in flight the relation is about the committed state and the pc alone. -/
theorem follows_of_empty {s : State} {a : Arch} (hsize : s.robSize = 0) (hentry : ∀ p : Pick, (entryAt s p).busy = false)
    (hregs : a.x = s.regs) (hmem : a.mem = s.mem) (hpc : s.pc = a.pc) : Follows s a where
  regs := hregs
  mem := hmem
  robs k hk := by simp [not_occupied_of_empty hsize] at hk
  entries p hp := by simp [hentry] at hp
  pc _ _ := by rw [hpc, hsize]; rfl

/-- The flush after a misprediction is the step of `Seq` past the branch: the pc goes to the path that was not predicted. -/
theorem Follows.flush {s : State} {a : Arch} (hf : Follows s a) (hc : Consistent s) (hmis : Mispredicts s) :
    seqStep a = .running (seqNext a) ∧ Follows (flushState s (head s)) (seqNext a) := by
  obtain ⟨hready, hheadBranch, hwrong⟩ := hmis
  have hclass : (head s).commitClass = .branch := (RobEntry.commitClass_eq_branch_iff _).2 hheadBranch
  have hnever : (head s).commitClass ≠ .never := by rw [hclass]; simp
  obtain ⟨i, hd, hi⟩ := hf.head_completes hc hready hnever
  have hbranch : (recordOf i).op.isBranch = true := hi.op ▸ hheadBranch.2
  have hregs := hi.regs hf.regs s.robHead
  have hmem := hi.mem hf.mem s.robHead
  rw [hclass] at hregs hmem
  refine ⟨hf.seqStep_running hc hready hnever (by rw [hclass]; simp), ?_⟩
  rw [seqNext_of_ok hd]
  exact follows_of_empty rfl (entryAt_flushState_busy s _) hregs.symm hmem.symm (hi.addr_of_mispredicted hbranch hwrong)

/-! ### Execute and Commit together (R125) -/

/-- The writes of Execute and Commit keep the relation, with no step or one step of `Seq`, when neither a flush nor a halt is among them. -/
theorem Follows.committed {s : State} {a : Arch} (hf : Follows s a) (hc : Consistent s) (hm : FullMemory s) (hwf : s.mem.wf = true)
    {ex : ExecResult} (hex : execute s = .ok ex) {cm : CommitResult} (hcm : commit s = .ok cm) (hne : ∀ b, cm ≠ .mispredicted b)
    (hhalt : ∀ b, cm ≠ .retired .halt b) :
    ∃ b, (b = a ∨ seqStep a = .running b) ∧ Follows (committed s ex cm) b ∧ Advances s (committed s ex cm) a b := by
  have hfn := hf.applyExecute hc hm hwf hex
  have hcn := hc.applyExecute hex
  have hmove := advances_applyExecute s ex a
  rcases commit_cases hcm with ⟨rfl, -⟩ | ⟨h0, hready, ⟨rfl, -⟩ | ⟨c, rfl, rfl, hnever, hright, -⟩⟩
  · exact ⟨a, .inl rfl, hfn, hmove⟩
  · exact absurd rfl (hne _)
  · have hhead : head (Machine.applyExecute s ex) = robAt s s.robHead := by
      rw [head, applyExecute_robHead, hc.robAt_applyExecute_of_ready hex hready]
    have hreadyn : HeadReady (Machine.applyExecute s ex) := ⟨by rwa [applyExecute_robSize], by rwa [hhead]⟩
    have hstate : Machine.committed s ex (.retired (robAt s s.robHead).commitClass (robAt s s.robHead)) =
        Safety.retired (Machine.applyExecute s ex) := by
      rw [Safety.retired, applyExecute_robHead, hhead]; rfl
    have hmis : ¬ Mispredicts (Machine.applyExecute s ex) := fun ⟨_, hbranch, hwrong⟩ => by
      rw [hhead] at hwrong
      exact hwrong (hright ((RobEntry.commitClass_eq_branch_iff _).2 (hhead ▸ hbranch)))
    rw [← hhead] at hnever
    have hnothalt : (head (Machine.applyExecute s ex)).commitClass ≠ .halt := fun h => hhalt (robAt s s.robHead) (by rw [← hhead, h])
    have hretire := hfn.advances_retired hcn hreadyn hnever hnothalt hmis
    rw [hstate]
    refine ⟨seqNext a, .inr (hfn.seqStep_running hcn hreadyn hnever hnothalt), hfn.retired hcn hreadyn hnever hnothalt hmis,
      ⟨fun h => hmove.path (hretire.path h), fun k hk => ?_, hretire.last.trans hmove.last⟩⟩
    rw [hretire.arch k hk]
    exact hmove.arch k ((occupied_retired hcn hreadyn.1 k).1 hk).1

end Sys2Proof.Machine
end

section
/-! PROOFS, `70_reset_and_hazards.md`. An issue keeps the relation between the block and `Seq`; so does every step, and a run that halts
has halted where `Seq` does (R129, R146 to R157, R306). -/

namespace Sys2Proof.Machine

open Safety

/-! ### The operands and the word of an issue, in the terms of `Seq` (R129, R146 to R148) -/

section
variable {s : State} {a : Arch} (hf : Follows s a) (hc : Consistent s) (hm : FullMemory s) (hwf : s.mem.wf = true)
include hf hc hm

/-- The word that Fetch reads is the one that `Seq` fetches after the instructions in flight: none of their stores touches it. -/
theorem Follows.fetch (hwf : s.mem.wf = true) (hself : NoSelfModification a) (hblock : s.block = false)
    (hpath : OnPath s a s.robSize.toNat) {w : Word} (hw : fetchWord s = .ok w) : w = (seqAt a s.robSize.toNat).word := by
  have hpc := hf.pc hblock hpath
  rw [fetchWord, readPort_full hm, Except.ok.injEq] at hw
  rw [← hw, Arch.word, ← hpc]
  refine hf.memRead_eq hc.size_le hwf le_rfl fun k i hk hage hd x hx hstores => ?_
  obtain ⟨hstore, hin⟩ := hstores
  obtain ⟨o, ho, rfl⟩ := (inAccess_iff _ _ _).1 hx
  have hrun := hpath.seqRun hc.size_le le_rfl
  have hrunk := (hpath.mono hage.le).seqRun hc.size_le hage.le
  have hout := hself _ _ _ _ _ _ hage hrunk hrun (storeOf_of_isStore hd hstore) o ho
  rw [← hpc, hin] at hout
  cases hout

include hwf

/-- The CDB carries what its instruction computes in `Seq` (R179). -/
theorem Follows.cdb_value {ex : ExecResult} (hex : execute s = .ok ex) {c : Cdb} (hcdb : ex.cdb = some c)
    (hpath : OnPath s a (age s c.id)) : c.value = seqResult (archAt s a c.id) := by
  rcases execute_cases hex with ⟨rfl, -⟩ | ⟨rfl, -⟩ | ⟨p, v, t, hsel, hfire, rfl⟩
  · cases hcdb
  · cases hcdb
  · cases hcdb
    obtain ⟨i, hd, hv, -⟩ := hf.fired hc hm hwf (select_eligible hsel) hpath hfire
    exact hv.trans (seqResult_of_ok hd).symm

/-- `Resolve` gives what `Seq` reads after the instructions in flight, or the id of the one that computes it. -/
theorem Follows.resolve_holds {ex : ExecResult} (hex : execute s = .ok ex) (hpath : OnPath s a s.robSize.toNat) (free : Word) (r : Reg) :
    OperandHolds (archAt s a) ((seqAt a s.robSize.toNat).get r) (resolve s ex.cdb free r).value (resolve s ex.cdb free r).tag := by
  have hres := resolve_resolves s ex.cdb free r
  generalize (resolve s ex.cdb free r).value = v, (resolve s ex.cdb free r).tag = q at hres ⊢
  unfold Resolves at hres
  split_ifs at hres with hr halias hready
  · obtain ⟨rfl, rfl⟩ := hres
    exact ⟨fun _ => by rw [hr]; rfl, fun _ h => by cases h⟩
  · obtain ⟨rfl, rfl⟩ := hres
    refine ⟨fun _ => ?_, fun _ h => by cases h⟩
    rw [hf.get_of_no_promise hc.size_le hpath ((hc.alias_resolved r hr).1 halias), readReg, if_neg hr]
  all_goals
    have hyoungest := hc.alias_names hr (Bool.not_eq_false _ ▸ halias)
    have hlive := hyoungest.1.1
    have hpathk : OnPath s a (age s (Bank.get s.rat r).id) := hpath.mono ((occupied_iff _ _).1 hlive).le
    rw [hf.get_of_youngestPromise hc.size_le hr hpath hyoungest]
  · obtain ⟨rfl, rfl⟩ := hres
    refine ⟨fun _ => ?_, fun _ h => by cases h⟩
    obtain ⟨i, hd, -⟩ := hpath _ hlive ((occupied_iff _ _).1 hlive)
    rw [((hf.robs _ hlive hpathk).issued i hd).value hready, seqResult_of_ok hd]
  · obtain ⟨hcdb, rfl⟩ | ⟨-, rfl⟩ := hres
    · exact ⟨fun _ => hf.cdb_value hc hm hwf hex hcdb hpathk, fun _ h => by cases h⟩
    · exact ⟨fun h => absurd h (Option.some_ne_none _), fun l h => Option.some.inj h ▸ rfl⟩

theorem Follows.capture_holds {ex : ExecResult} (hex : execute s = .ok ex) (hpath : OnPath s a s.robSize.toNat) (free : Word)
    (src : Source) : OperandHolds (archAt s a) ((seqAt a s.robSize.toNat).operand src) (capture s ex.cdb free src).value
      (capture s ex.cdb free src).tag := by
  cases src with
  | known v => exact ⟨fun _ => rfl, fun _ h => by cases h⟩
  | reg r => exact hf.resolve_holds hc hm hwf hex hpath free r

end

/-! ### An issue (R144 to R157) -/

/-- The ROB entry of an issue is that of the instruction, in the state of `Seq` with its pc. -/
theorem issuedAs_issuedRob {s : State} {b : Arch} (hpc : s.pc = b.pc) (i : Instr) : IssuedAs (issuedRob s (planOf i s)) i b where
  op := planOf_op i s
  rd := planOf_rd i s
  value h := by cases h
  addr h := by cases h
  other_path hbranch := by rw [issuedRob_other_path s hbranch, hpc]

theorem robHolds_issuedRob {s : State} {b : Arch} (hpc : s.pc = b.pc) : RobHolds (issuedRob s (wordPlan s b.word)) b where
  issued i hd := by rw [wordPlan_of_ok hd]; exact issuedAs_issuedRob hpc i
  invalid r hd := by simp [issuedRob, wordPlan, hd, invalidPlan, plainPlan, invalidRecord]

section
variable {s n : State} {a b : Arch} {w : Word} {i : Slot} {ex : ExecResult} (red : Bool)
  (h : Admits s n ex.cdb (wordPlan s w) i)
include h

/-- A prediction in flight is not touched by an issue. -/
theorem onPath_of_issue {m : Nat} (hpath : OnPath (applyIssue s n ex.cdb red (wordPlan s w) i) b m) : OnPath n b m := by
  intro k hk hlt
  have hgoes := hpath k ((h.occupied_iff red k).2 (.inl hk)) hlt
  rwa [GoesOn, h.robAt_old red hk] at hgoes

variable (hf : Follows s a) (hc : Consistent s) (hm : FullMemory s) (hwf : s.mem.wf = true) (hself : NoSelfModification a)
  (hacts : fetchActs s = true) (hw : fetchWord s = .ok w) (hex : execute s = .ok ex)
  (hfn : Follows n b) (hmove : Advances s n a b)
include hf hc hm hwf hself hacts hw hmove

omit h in
/-- When the path is that of `Seq`, the issued instruction is the one that `Seq` executes after those in flight. -/
theorem Follows.issued_word (hpath : OnPath n b n.robSize.toNat) :
    OnPath s a s.robSize.toNat ∧ s.pc = (seqAt b n.robSize.toNat).pc ∧ w = (seqAt b n.robSize.toNat).word := by
  obtain ⟨-, hblock, -⟩ := (fetchActs_iff s).1 hacts
  have hpaths := hmove.path hpath
  rw [hmove.last]
  exact ⟨hpaths, hf.pc hblock hpaths, hf.fetch hc hm hwf hself hblock hpaths hw⟩

include hex

/-- The entry of the issue holds the operands of `Seq`: a producer that it waits for is still in flight. -/
theorem Follows.issuedEntry_holds (hpath : OnPath n b n.robSize.toNat) :
    EntryHolds (archAt n b) (issuedEntry s ex.cdb (wordPlan s w)) := by
  obtain ⟨hpaths, hpc, hword⟩ := hf.issued_word hc hm hwf hself hacts hw hmove hpath
  intro j hd
  have hplace : archAt n b (issuedEntry s ex.cdb (wordPlan s w)).dest = seqAt b n.robSize.toNat := by
    rw [h.dest_new, archAt, age_tail h.room]
  rw [hplace] at hd ⊢
  have hplan : wordPlan s w = planOf j s := wordPlan_of_ok (hword ▸ hd)
  have hmoved : ∀ {x v q}, OperandHolds (archAt s a) x v q → (∀ l, q = some l → occupied n l = true) →
      OperandHolds (archAt n b) x v q := fun hold hlive =>
    ⟨hold.resolved, fun l hl => by rw [hmove.arch l (hlive l hl)]; exact hold.pending l hl⟩
  have htags := h.tags
  rw [hplan] at htags ⊢
  rw [hmove.last] at hpc
  obtain ⟨hj, hk⟩ := capture_planOf j s ex.cdb
  refine ⟨planOf_imm j s, hmoved ?_ fun l hl => (htags l (.inl hl)).1, hmoved ?_ fun l hl => (htags l (.inr hl)).1⟩
  · simp only [issuedEntry, hj, seqEntry, hmove.last]
    rw [← hpc]
    exact hf.capture_holds hc hm hwf hex hpaths _ _
  · simp only [issuedEntry, hk, seqEntry, hmove.last]
    rw [← hpc]
    exact hf.capture_holds hc hm hwf hex hpaths _ _

include hfn

/-- An issue on top of the writes of Execute and Commit keeps the relation. -/
theorem Follows.issue (hred : red = false) : Follows (applyIssue s n ex.cdb red (wordPlan s w) i) b where
  regs := hfn.regs
  mem := hfn.mem
  robs k hk hpath := by
    have hpathn := onPath_of_issue red h hpath
    obtain hk | rfl := (h.occupied_iff red k).1 hk
    · rw [h.robAt_old red hk]
      exact hfn.robs k hk hpathn
    · have hage : age (applyIssue s n ex.cdb red (wordPlan s w) i) (tail n) = n.robSize.toNat := age_tail h.room
      rw [hage] at hpathn
      obtain ⟨-, hpc, hword⟩ := hf.issued_word hc hm hwf hself hacts hw hmove hpathn
      rw [h.robAt_tail, archAt, hage, hword]
      exact robHolds_issuedRob hpc
  entries q hq hpath := by
    have hpathn := onPath_of_issue red h hpath
    by_cases hqn : q = ⟨routeOf (wordPlan s w).op, i⟩
    · subst hqn
      rw [entryAt_applyIssue_new] at hpathn ⊢
      have hage : age (applyIssue s n ex.cdb red (wordPlan s w) i) (issuedEntry s ex.cdb (wordPlan s w)).dest = n.robSize.toNat := by
        rw [h.dest_new]; exact age_tail h.room
      rw [hage] at hpathn
      have hholds := hf.issuedEntry_holds h hc hm hwf hself hacts hw hex hmove hpathn
      exact hholds
    · rw [entryAt_applyIssue_old red hqn] at hq hpathn ⊢
      exact hfn.entries q hq hpathn
  pc hblock hpath := by
    rw [h.robSize] at hpath ⊢
    have hpathn : OnPath n b n.robSize.toNat := (onPath_of_issue red h hpath).mono (Nat.le_succ _)
    obtain ⟨-, hpc, hword⟩ := hf.issued_word hc hm hwf hself hacts hw hmove hpathn
    have hage : age (applyIssue s n ex.cdb red (wordPlan s w) i) (tail n) = n.robSize.toNat := age_tail h.room
    obtain ⟨j, hd, hhalt, hpred⟩ := hpath (tail n) ((h.occupied_iff red _).2 (.inr rfl)) (by omega)
    rw [archAt, hage] at hd hpred
    have hplan : wordPlan s w = planOf j s := wordPlan_of_ok (hword ▸ hd)
    rw [h.robAt_tail, hplan] at hpred
    rw [hred, applyIssue_pc, hplan, seqAt_succ, seqNext_of_ok hd]
    refine planOf_nextPc_eq_seqExec_pc hpc (fun hop => ?_) hhalt fun hbranch => ?_
    · simp [hplan, planOf_op, hop] at hblock
    · rw [← hpred hbranch, planOf_branch s hbranch]; rfl

end

/-! ### A step and a run (R306) -/

/-- The block in state `s`, after some steps from a start at `a₀`, agrees with a run of `Seq` from `a₀`: it follows one that goes on,
or has halted with the registers and memory of one that has halted. -/
inductive AgreesWithSeq (a₀ : Arch) (s : State) : Prop where
  | running (k : Nat) (a : Arch) (run : seqRun k a₀ = .running a) (self : NoSelfModification a) (follows : Follows s a)
      (not_halted : s.halted = false)
  | halted (k : Nat) (a : Arch) (run : seqRun k a₀ = .halted a) (regs : a.x = s.regs) (mem : a.mem = s.mem) (halted : s.halted = true)

/-- What every state of a run satisfies. -/
structure RunInvariant (a₀ : Arch) (s : State) : Prop where
  full : FullMemory s
  wf : s.mem.wf = true
  consistent : Consistent s
  agrees : AgreesWithSeq a₀ s

section
variable {s t : State} {a : Arch}

theorem step_fullMemory (hm : FullMemory s) (h : step s = .next t) : FullMemory t := by
  by_cases ha : Active s
  · rw [FullMemory, step_params ha h]
    exact hm
  · obtain rfl | rfl := step_of_not_active ha h <;> exact hm

variable (hf : Follows s a) (hc : Consistent s) (hm : FullMemory s) (hwf : s.mem.wf = true) (ha : Active s) (h : step s = .next t)
include hf hc ha h

/-- The step in which the sentinel commits leaves the registers and memory with which `Seq` stops (R278, R301). -/
theorem Follows.step_halts {b : RobEntry} (hcm : commit s = .ok (.retired .halt b)) :
    seqStep a = .halted a ∧ a.x = t.regs ∧ a.mem = t.mem := by
  obtain ⟨hready, hsentinel⟩ := (commit_halt_iff s).1 ⟨b, hcm⟩
  have hclass : (head s).commitClass = .halt := (RobEntry.commitClass_eq_halt_iff _).2 hsentinel
  have hop : (head s).halt = true ∨ (head s).op ≠ .invalid := hsentinel.imp_right fun hop => by simp [hop]
  obtain ⟨hregs, hmem⟩ := step_arch_of_headReady ha hready hop h
  rw [hclass] at hregs hmem
  exact ⟨hf.seqStep_halted hc hready hclass, hf.regs.trans hregs.symm, hf.mem.trans hmem.symm⟩

include hm hwf

/-- Every other step of the block is no step or one step of `Seq`, and keeps the relation. -/
theorem Follows.step (hself : NoSelfModification a) (hhalt : ∀ b, commit s ≠ .ok (.retired .halt b)) :
    ∃ b, (b = a ∨ seqStep a = .running b) ∧ Follows t b := by
  rcases step_active ha h with ⟨hmis, rfl⟩ | ⟨ex, cm, hex, hcm, hne, hcase⟩
  · obtain ⟨hstep, hflush⟩ := hf.flush hc hmis
    exact ⟨_, .inr hstep, hflush⟩
  obtain ⟨b, hb, hfn, hmove⟩ := hf.committed hc hm hwf hex hcm hne fun e he => hhalt e (he ▸ hcm)
  obtain ⟨-, rfl⟩ | ⟨w, i, ⟨hacts, hw, hsize, -⟩, hi, rfl⟩ := hcase
  · exact ⟨b, hb, hfn⟩
  · have hadmits := hc.admits hacts ex hcm (wordPlan_halt_iff s w) hsize hi
    have hjalr : ¬ JumpRegisterRetires s := fun ⟨⟨h0, _⟩, _, hop⟩ => by
      obtain ⟨-, hblock⟩ := jalr_alone hc h0 hop
      simp [fetchActs, hblock] at hacts
    exact ⟨b, hb, hf.issue _ hadmits hc hm hwf hself hacts hw hex hfn hmove (not_redirects hcm hjalr)⟩

end

theorem AgreesWithSeq.step {a₀ : Arch} {s t : State} (hs : RunInvariant a₀ s) (h : step s = .next t) : AgreesWithSeq a₀ t := by
  obtain ⟨hm, hwf, hc, hagrees⟩ := hs
  by_cases ha : Active s
  swap
  · obtain rfl | rfl := step_of_not_active ha h
    · exact hagrees
    · cases hagrees with
      | running k a run self follows hrunning => exact .running k a run self { follows with } hrunning
      | halted k a run regs mem hhalted => exact .halted k a run regs mem hhalted
  obtain ⟨hhaltedIff, -⟩ := Proofs.onlyTwoEventsEndRun s t ha h
  rw [← commit_halt_iff] at hhaltedIff
  cases hagrees with
  | halted k a run regs mem hhalted =>
    rw [ha.1.1] at hhalted
    cases hhalted
  | running k a run self follows hrunning =>
    by_cases hhalts : ∃ b, commit s = .ok (.retired .halt b)
    · obtain ⟨b, hcm⟩ := hhalts
      obtain ⟨hstep, hregs, hmem⟩ := follows.step_halts hc ha h hcm
      exact .halted (k + 1) a ((seqRun_succ run).trans hstep) hregs hmem (hhaltedIff.2 ⟨b, hcm⟩)
    · have hrunning' : t.halted = false := Bool.eq_false_iff.2 (mt hhaltedIff.1 hhalts)
      obtain ⟨b, rfl | hstep, hfollows⟩ := follows.step hc hm hwf ha h self (not_exists.1 hhalts)
      · exact .running k b run self hfollows hrunning'
      · exact .running (k + 1) b ((seqRun_succ run).trans hstep) (noSelfModification_seqStep self hstep) hfollows hrunning'

theorem RunInvariant.step {a₀ : Arch} {s t : State} (hs : RunInvariant a₀ s) (h : step s = .next t) : RunInvariant a₀ t where
  full := step_fullMemory hs.full h
  wf := Proofs.stepKeepsMemoryCanonical s t hs.wf h
  consistent := Proofs.stepKeepsConsistent s t hs.consistent h
  agrees := AgreesWithSeq.step hs h

theorem RunInvariant.after {a₀ : Arch} {n : Nat} {s t : State} (hs : RunInvariant a₀ s) (h : after n s = some t) :
    RunInvariant a₀ t := by
  induction n generalizing s with
  | zero => cases h; exact hs
  | succ n ih =>
    rw [Safety.after] at h
    cases hstep : Machine.step s with
    | next u => rw [hstep] at h; exact ih (hs.step hstep) h
    | fault f => rw [hstep] at h; cases h
    | refused r => rw [hstep] at h; cases h

/-- The state in which a run starts follows `Seq` from its own registers, pc and memory: nothing is in flight. -/
theorem runInvariant_startOf {p : Params} {m : Mem} {choices : List Nat} (hp : p.memBytes = 4294967296) (hm : m.wf = true)
    (hself : NoSelfModification (archOf (State.resetWith p m))) :
    RunInvariant (archOf (State.resetWith p m)) (startOf p m choices) where
  full := hp
  wf := hm
  consistent := { Proofs.resetIsConsistent p m with }
  agrees := by
    obtain ⟨-, -, -, hstations, -⟩ := Proofs.resetValues.1 p m
    have hempty : Follows (State.resetWith p m) (archOf (State.resetWith p m)) :=
      follows_of_empty rfl hstations rfl rfl rfl
    exact .running 0 _ rfl hself { hempty with } rfl

end Sys2Proof.Machine

namespace Sys2Proof.Proofs

open Sys2Proof.Machine Sys2Proof.Safety

/-- Settles O57: every state of a run follows `Seq`, and the commit of the sentinel is the stop of `Seq`. -/
theorem haltedRunAgreesWithSeq : Obligations.HaltedRunAgreesWithSeq := by
  intro p m choices n t hp hm hself hrun hhalted
  have hinv := (runInvariant_startOf (choices := choices) hp hm hself).after hrun
  cases hinv.agrees with
  | running k a run self follows hrunning =>
    rw [hhalted] at hrunning
    cases hrunning
  | halted k a run regs mem halted =>
    have hget : ∀ r, a.get r = readReg t r := fun r => by rw [Arch.get, readReg, regs]
    exact ⟨k, a, run, hget, fun x => by rw [mem], by rw [exitValue, hget, retReg]⟩

end Sys2Proof.Proofs
end
